-- ==== Sys2Proof/Word.lean ====
section
/-! DEFINITION. The words and small index types of the block (spec/00_scope.md rules R9, R10, R12, R15).
Signed values of N bits are kept as their two's-complement bits; `BitVec.toInt` is `sext_N` and `BitVec.toNat` is `zext_N`. -/

namespace Sys2Proof

/-- One byte of the RAM as the model holds it. -/
abbrev Byte := BitVec 8

/-- `u16`, or the bits of an `s16` (R10): a register, a RAM word, a sample. -/
abbrev Half := BitVec 16

/-- `u20`: a RAM word address, reduced modulo 2^20 by its type (20_memory R75). -/
abbrev RamAddr := BitVec 20

/-- `u24`: one bit per voice, bit `v` belonging to voice `v` (30_encoding R111). -/
abbrev VoiceMask := BitVec 24

/-- The 36-bit transaction word of the host port (30_encoding R100). -/
abbrev TransWord := BitVec 36

/-- The two identical cores (60_exceptions R456). -/
inductive CoreId where
  | core0
  | core1
deriving DecidableEq, Repr, Inhabited

/-- The index `c` of a core, as address formulas use it. -/
def CoreId.num : CoreId → Nat
  | .core0 => 0
  | .core1 => 1

/-- A stereo channel, or the phase of the reverb: left is 0 and right is 1 (R15, 10_state R37). -/
inductive Side where
  | left
  | right
deriving DecidableEq, Repr, Inhabited

/-- `1 - ph` of a phase. -/
def Side.other : Side → Side
  | .left => .right
  | .right => .left

/-- The index of a side: 0 for left, 1 for right. -/
def Side.num : Side → Nat
  | .left => 0
  | .right => 1

/-- A left and a right instance of one thing (R15). -/
structure Pair (α : Type) where
  left : α
  right : α
deriving DecidableEq, Repr, Inhabited

/-- The member of a pair on a side. -/
def Pair.get {α : Type} (p : Pair α) : Side → α
  | .left => p.left
  | .right => p.right

/-- A pair with the member on one side replaced. -/
def Pair.set {α : Type} (p : Pair α) (ch : Side) (x : α) : Pair α :=
  match ch with
  | .left => { p with left := x }
  | .right => { p with right := x }

/-- A stereo sample pair. -/
abbrev Frame := Pair Half

/-- A voice of a core, 0..23. -/
abbrev VoiceId := Fin 24

/-- The 24 voices in ascending order, the order of every voice loop (45_mixer R363). -/
def voiceIds : List VoiceId :=
  [0, 1, 2, 3, 4, 5, 6, 7, 8, 9, 10, 11, 12, 13, 14, 15, 16, 17, 18, 19, 20, 21, 22, 23]

end Sys2Proof
end

