-- ==== Sys2Proof/Syntax.lean ====
section
/-! DEFINITION. The syntax of the block's operations (00_scope R5): one constructor per mnemonic of spec/opcode_table.json.
The rows of the table that share a mnemonic differ only in the core or the voice their pattern holds as a constant; these are operands here. -/

namespace Sys2Proof

/-- Which of the two register operations a register row is: `REGRD`, or `REGWR` with its data operand (30_encoding R101, field `w`). -/
inductive Access where
  | read
  | write (d : Half)
deriving DecidableEq, Repr, Inhabited

/-- The operations of the block. A constructor named after a register is an access to it: of voice `v` of core `c` for a voice register, of core `c` for a core register. -/
inductive Instr where
  /-- `VOLL` (R142). -/
  | voll (c : CoreId) (v : VoiceId) (a : Access)
  /-- `VOLR` (R142). -/
  | volr (c : CoreId) (v : VoiceId) (a : Access)
  /-- `PITCH` (R143). -/
  | pitch (c : CoreId) (v : VoiceId) (a : Access)
  /-- `ADSR1` (R144). -/
  | adsr1 (c : CoreId) (v : VoiceId) (a : Access)
  /-- `ADSR2` (R145). -/
  | adsr2 (c : CoreId) (v : VoiceId) (a : Access)
  /-- `ENVX` (R146). -/
  | envx (c : CoreId) (v : VoiceId) (a : Access)
  /-- `VOLXL` (R147). -/
  | volxl (c : CoreId) (v : VoiceId) (a : Access)
  /-- `VOLXR` (R147). -/
  | volxr (c : CoreId) (v : VoiceId) (a : Access)
  /-- `SSA_H` (R148). -/
  | ssaH (c : CoreId) (v : VoiceId) (a : Access)
  /-- `SSA_L` (R148). -/
  | ssaL (c : CoreId) (v : VoiceId) (a : Access)
  /-- `LSA_H` (R149). -/
  | lsaH (c : CoreId) (v : VoiceId) (a : Access)
  /-- `LSA_L` (R149). -/
  | lsaL (c : CoreId) (v : VoiceId) (a : Access)
  /-- `NAX_H` (R150). -/
  | naxH (c : CoreId) (v : VoiceId) (a : Access)
  /-- `NAX_L` (R150). -/
  | naxL (c : CoreId) (v : VoiceId) (a : Access)
  /-- `PMON_L` (R160). -/
  | pmonL (c : CoreId) (a : Access)
  /-- `PMON_H` (R160). -/
  | pmonH (c : CoreId) (a : Access)
  /-- `NON_L` (R161). -/
  | nonL (c : CoreId) (a : Access)
  /-- `NON_H` (R161). -/
  | nonH (c : CoreId) (a : Access)
  /-- `VMIXL_L` (R162). -/
  | vmixlL (c : CoreId) (a : Access)
  /-- `VMIXL_H` (R162). -/
  | vmixlH (c : CoreId) (a : Access)
  /-- `VMIXEL_L` (R162). -/
  | vmixelL (c : CoreId) (a : Access)
  /-- `VMIXEL_H` (R162). -/
  | vmixelH (c : CoreId) (a : Access)
  /-- `VMIXR_L` (R162). -/
  | vmixrL (c : CoreId) (a : Access)
  /-- `VMIXR_H` (R162). -/
  | vmixrH (c : CoreId) (a : Access)
  /-- `VMIXER_L` (R162). -/
  | vmixerL (c : CoreId) (a : Access)
  /-- `VMIXER_H` (R162). -/
  | vmixerH (c : CoreId) (a : Access)
  /-- `MMIX` (R164). -/
  | mmix (c : CoreId) (a : Access)
  /-- `ATTR` (R166). -/
  | attr (c : CoreId) (a : Access)
  /-- `IRQA_H` (R167). -/
  | irqaH (c : CoreId) (a : Access)
  /-- `IRQA_L` (R167). -/
  | irqaL (c : CoreId) (a : Access)
  /-- `KON_L` (R168). -/
  | konL (c : CoreId) (a : Access)
  /-- `KON_H` (R168). -/
  | konH (c : CoreId) (a : Access)
  /-- `KOFF_L` (R169). -/
  | koffL (c : CoreId) (a : Access)
  /-- `KOFF_H` (R169). -/
  | koffH (c : CoreId) (a : Access)
  /-- `TSA_H` (R170). -/
  | tsaH (c : CoreId) (a : Access)
  /-- `TSA_L` (R170). -/
  | tsaL (c : CoreId) (a : Access)
  /-- `UNMAPPED`: an access to the register address `ra`, at which there is no register (rule R183). -/
  | unmapped (ra : Half) (a : Access)
  /-- `ADMAS` (R171). -/
  | admas (c : CoreId) (a : Access)
  /-- `ESA_H` (R172). -/
  | esaH (c : CoreId) (a : Access)
  /-- `ESA_L` (R172). -/
  | esaL (c : CoreId) (a : Access)
  /-- `dAPF0_H` (R172). -/
  | dAPF0_H (c : CoreId) (a : Access)
  /-- `dAPF0_L` (R172). -/
  | dAPF0_L (c : CoreId) (a : Access)
  /-- `dAPF1_H` (R172). -/
  | dAPF1_H (c : CoreId) (a : Access)
  /-- `dAPF1_L` (R172). -/
  | dAPF1_L (c : CoreId) (a : Access)
  /-- `mSAME0_H` (R172). -/
  | mSAME0_H (c : CoreId) (a : Access)
  /-- `mSAME0_L` (R172). -/
  | mSAME0_L (c : CoreId) (a : Access)
  /-- `mSAME1_H` (R172). -/
  | mSAME1_H (c : CoreId) (a : Access)
  /-- `mSAME1_L` (R172). -/
  | mSAME1_L (c : CoreId) (a : Access)
  /-- `mCOMB1_0_H` (R172). -/
  | mCOMB1_0_H (c : CoreId) (a : Access)
  /-- `mCOMB1_0_L` (R172). -/
  | mCOMB1_0_L (c : CoreId) (a : Access)
  /-- `mCOMB1_1_H` (R172). -/
  | mCOMB1_1_H (c : CoreId) (a : Access)
  /-- `mCOMB1_1_L` (R172). -/
  | mCOMB1_1_L (c : CoreId) (a : Access)
  /-- `mCOMB2_0_H` (R172). -/
  | mCOMB2_0_H (c : CoreId) (a : Access)
  /-- `mCOMB2_0_L` (R172). -/
  | mCOMB2_0_L (c : CoreId) (a : Access)
  /-- `mCOMB2_1_H` (R172). -/
  | mCOMB2_1_H (c : CoreId) (a : Access)
  /-- `mCOMB2_1_L` (R172). -/
  | mCOMB2_1_L (c : CoreId) (a : Access)
  /-- `dSAME0_H` (R172). -/
  | dSAME0_H (c : CoreId) (a : Access)
  /-- `dSAME0_L` (R172). -/
  | dSAME0_L (c : CoreId) (a : Access)
  /-- `dSAME1_H` (R172). -/
  | dSAME1_H (c : CoreId) (a : Access)
  /-- `dSAME1_L` (R172). -/
  | dSAME1_L (c : CoreId) (a : Access)
  /-- `mDIFF0_H` (R172). -/
  | mDIFF0_H (c : CoreId) (a : Access)
  /-- `mDIFF0_L` (R172). -/
  | mDIFF0_L (c : CoreId) (a : Access)
  /-- `mDIFF1_H` (R172). -/
  | mDIFF1_H (c : CoreId) (a : Access)
  /-- `mDIFF1_L` (R172). -/
  | mDIFF1_L (c : CoreId) (a : Access)
  /-- `mCOMB3_0_H` (R172). -/
  | mCOMB3_0_H (c : CoreId) (a : Access)
  /-- `mCOMB3_0_L` (R172). -/
  | mCOMB3_0_L (c : CoreId) (a : Access)
  /-- `mCOMB3_1_H` (R172). -/
  | mCOMB3_1_H (c : CoreId) (a : Access)
  /-- `mCOMB3_1_L` (R172). -/
  | mCOMB3_1_L (c : CoreId) (a : Access)
  /-- `mCOMB4_0_H` (R172). -/
  | mCOMB4_0_H (c : CoreId) (a : Access)
  /-- `mCOMB4_0_L` (R172). -/
  | mCOMB4_0_L (c : CoreId) (a : Access)
  /-- `mCOMB4_1_H` (R172). -/
  | mCOMB4_1_H (c : CoreId) (a : Access)
  /-- `mCOMB4_1_L` (R172). -/
  | mCOMB4_1_L (c : CoreId) (a : Access)
  /-- `dDIFF0_H` (R172). -/
  | dDIFF0_H (c : CoreId) (a : Access)
  /-- `dDIFF0_L` (R172). -/
  | dDIFF0_L (c : CoreId) (a : Access)
  /-- `dDIFF1_H` (R172). -/
  | dDIFF1_H (c : CoreId) (a : Access)
  /-- `dDIFF1_L` (R172). -/
  | dDIFF1_L (c : CoreId) (a : Access)
  /-- `mAPF1_0_H` (R172). -/
  | mAPF1_0_H (c : CoreId) (a : Access)
  /-- `mAPF1_0_L` (R172). -/
  | mAPF1_0_L (c : CoreId) (a : Access)
  /-- `mAPF1_1_H` (R172). -/
  | mAPF1_1_H (c : CoreId) (a : Access)
  /-- `mAPF1_1_L` (R172). -/
  | mAPF1_1_L (c : CoreId) (a : Access)
  /-- `mAPF2_0_H` (R172). -/
  | mAPF2_0_H (c : CoreId) (a : Access)
  /-- `mAPF2_0_L` (R172). -/
  | mAPF2_0_L (c : CoreId) (a : Access)
  /-- `mAPF2_1_H` (R172). -/
  | mAPF2_1_H (c : CoreId) (a : Access)
  /-- `mAPF2_1_L` (R172). -/
  | mAPF2_1_L (c : CoreId) (a : Access)
  /-- `EEA_H` (R172). -/
  | eeaH (c : CoreId) (a : Access)
  /-- `EEA_L` (R172). -/
  | eeaL (c : CoreId) (a : Access)
  /-- `ENDX_L` (R173). -/
  | endxL (c : CoreId) (a : Access)
  /-- `ENDX_H` (R173). -/
  | endxH (c : CoreId) (a : Access)
  /-- `STATX` (R174). -/
  | statx (c : CoreId) (a : Access)
  /-- `MVOLL` (R177). -/
  | mvoll (c : CoreId) (a : Access)
  /-- `MVOLR` (R177). -/
  | mvolr (c : CoreId) (a : Access)
  /-- `EVOLL` (R179). -/
  | evoll (c : CoreId) (a : Access)
  /-- `EVOLR` (R179). -/
  | evolr (c : CoreId) (a : Access)
  /-- `AVOLL` (R179). -/
  | avoll (c : CoreId) (a : Access)
  /-- `AVOLR` (R179). -/
  | avolr (c : CoreId) (a : Access)
  /-- `BVOLL` (R179). -/
  | bvoll (c : CoreId) (a : Access)
  /-- `BVOLR` (R179). -/
  | bvolr (c : CoreId) (a : Access)
  /-- `MVOLXL` (R178). -/
  | mvolxl (c : CoreId) (a : Access)
  /-- `MVOLXR` (R178). -/
  | mvolxr (c : CoreId) (a : Access)
  /-- `vIIR` (R180). -/
  | vIIR (c : CoreId) (a : Access)
  /-- `vCOMB1` (R180). -/
  | vCOMB1 (c : CoreId) (a : Access)
  /-- `vCOMB2` (R180). -/
  | vCOMB2 (c : CoreId) (a : Access)
  /-- `vCOMB3` (R180). -/
  | vCOMB3 (c : CoreId) (a : Access)
  /-- `vCOMB4` (R180). -/
  | vCOMB4 (c : CoreId) (a : Access)
  /-- `vWALL` (R180). -/
  | vWALL (c : CoreId) (a : Access)
  /-- `vAPF1` (R180). -/
  | vAPF1 (c : CoreId) (a : Access)
  /-- `vAPF2` (R180). -/
  | vAPF2 (c : CoreId) (a : Access)
  /-- `vIN0` (R180). -/
  | vIN0 (c : CoreId) (a : Access)
  /-- `vIN1` (R180). -/
  | vIN1 (c : CoreId) (a : Access)
  /-- `SPDIF_OUT` (R182). -/
  | spdifOut (a : Access)
  /-- `IRQSTAT` (R181). -/
  | irqstat (a : Access)
  /-- `SPDIF_MODE` (R182). -/
  | spdifMode (a : Access)
  /-- `SPDIF_MEDIA` (R182). -/
  | spdifMedia (a : Access)
  /-- `RUN`: advance the sample clock by `n` cycles (rule R361). -/
  | run (n : Half)
  /-- `RUNDMA`: advance core `c`'s DMA clock by `n` cycles (rule R405). -/
  | runDma (c : CoreId) (n : Half)
  /-- `DMAWR`: start a host-to-RAM transfer of `n` words (rule R402). -/
  | dmaWr (c : CoreId) (n : Half)
  /-- `DMARD`: start a RAM-to-host transfer of `n` words (rule R403). -/
  | dmaRd (c : CoreId) (n : Half)
  /-- `RESET`: reset everything but the RAM (rule R470). -/
  | reset
deriving DecidableEq, Repr, Inhabited

end Sys2Proof
end

