-- ==== Sys2Proof/WellFormed.lean ====
section
/-! DEFINITION. Well-formed operations. Every operand but one is well formed by its type: the exception is the address of an access to an unmapped register. -/

namespace Sys2Proof

/-- The holes of the register space as inclusive address ranges: those of 30_encoding R103, the gaps of R106 for both cores, and 0x7C4 of R108. -/
def registerHoles : List (Nat × Nat) :=
  [(0x1AC, 0x1AE), (0x1B2, 0x1BE), (0x346, 0x346), (0x348, 0x3FF),
   (0x5AC, 0x5AE), (0x5B2, 0x5BE), (0x746, 0x746), (0x748, 0x75F),
   (0x7B0, 0x7BF), (0x7C4, 0x7C4), (0x7CA, 0x7FF)]

/-- A register address as R102 leaves it: bits 15..11 and bit 0 are clear. -/
def isRegisterAddress (ra : Half) : Bool := ra &&& 0x07FE == ra

/-- The address lies in a hole of the register space. -/
def isUnmapped (ra : Half) : Bool :=
  registerHoles.any fun h => decide (h.1 ≤ ra.toNat) && decide (ra.toNat ≤ h.2)

/-- What the encoding can express: `UNMAPPED` carries a masked address that holds no register; every other operation is well formed. -/
def Instr.wellFormed : Instr → Bool
  | .unmapped ra _ => isRegisterAddress ra && isUnmapped ra
  | _ => true

end Sys2Proof
end

