-- ==== Sys2Proof/Decode.lean ====
section
/-! DEFINITION. The transaction word: its decoder, written from the register map of 30_encoding R100 to R108 held as tables of rows (92 D2 to D4), and its encoder. -/

namespace Sys2Proof

/-- Why a transaction word is no operation. -/
inductive DecodeError where
  /-- `cmd` is one of the reserved operation codes 7..15 (30_encoding R126 (c)). -/
  | reservedOperation (cmd : BitVec 4)
deriving DecidableEq, Repr

/-- R104: voice parameter registers, by offset from the voice's first register. -/
def voiceParamRows : List (Nat × (CoreId → VoiceId → Access → Instr)) :=
  [(0x0, .voll), (0x2, .volr), (0x4, .pitch), (0x6, .adsr1),
   (0x8, .adsr2), (0xA, .envx), (0xC, .volxl), (0xE, .volxr)]

/-- R105: voice address registers, by offset from the voice's first half. -/
def voiceAddressRows : List (Nat × (CoreId → VoiceId → Access → Instr)) :=
  [(0x0, .ssaH), (0x2, .ssaL), (0x4, .lsaH), (0x6, .lsaL), (0x8, .naxH), (0xA, .naxL)]

/-- R106, first group: core registers below 0x1C0, by offset from the core's base. -/
def coreRows : List (Nat × (CoreId → Access → Instr)) :=
  [(0x180, .pmonL), (0x182, .pmonH), (0x184, .nonL), (0x186, .nonH),
   (0x188, .vmixlL), (0x18A, .vmixlH), (0x18C, .vmixelL), (0x18E, .vmixelH),
   (0x190, .vmixrL), (0x192, .vmixrH), (0x194, .vmixerL), (0x196, .vmixerH),
   (0x198, .mmix), (0x19A, .attr), (0x19C, .irqaH), (0x19E, .irqaL),
   (0x1A0, .konL), (0x1A2, .konH), (0x1A4, .koffL), (0x1A6, .koffH),
   (0x1A8, .tsaH), (0x1AA, .tsaL), (0x1B0, .admas)]

/-- R106, second group, less the reverb offsets. -/
def coreRows2 : List (Nat × (CoreId → Access → Instr)) :=
  [(0x2E0, .esaH), (0x2E2, .esaL), (0x33C, .eeaH), (0x33E, .eeaL),
   (0x340, .endxL), (0x342, .endxH), (0x344, .statx)]

/-- R125: the halves of the 22 reverb offset registers, by offset from the core's base. -/
def reverbOffsetRows : List (Nat × (CoreId → Access → Instr)) :=
  [(0x2E4, .dAPF0_H), (0x2E6, .dAPF0_L), (0x2E8, .dAPF1_H), (0x2EA, .dAPF1_L),
   (0x2EC, .mSAME0_H), (0x2EE, .mSAME0_L), (0x2F0, .mSAME1_H), (0x2F2, .mSAME1_L),
   (0x2F4, .mCOMB1_0_H), (0x2F6, .mCOMB1_0_L), (0x2F8, .mCOMB1_1_H), (0x2FA, .mCOMB1_1_L),
   (0x2FC, .mCOMB2_0_H), (0x2FE, .mCOMB2_0_L), (0x300, .mCOMB2_1_H), (0x302, .mCOMB2_1_L),
   (0x304, .dSAME0_H), (0x306, .dSAME0_L), (0x308, .dSAME1_H), (0x30A, .dSAME1_L),
   (0x30C, .mDIFF0_H), (0x30E, .mDIFF0_L), (0x310, .mDIFF1_H), (0x312, .mDIFF1_L),
   (0x314, .mCOMB3_0_H), (0x316, .mCOMB3_0_L), (0x318, .mCOMB3_1_H), (0x31A, .mCOMB3_1_L),
   (0x31C, .mCOMB4_0_H), (0x31E, .mCOMB4_0_L), (0x320, .mCOMB4_1_H), (0x322, .mCOMB4_1_L),
   (0x324, .dDIFF0_H), (0x326, .dDIFF0_L), (0x328, .dDIFF1_H), (0x32A, .dDIFF1_L),
   (0x32C, .mAPF1_0_H), (0x32E, .mAPF1_0_L), (0x330, .mAPF1_1_H), (0x332, .mAPF1_1_L),
   (0x334, .mAPF2_0_H), (0x336, .mAPF2_0_L), (0x338, .mAPF2_1_H), (0x33A, .mAPF2_1_L)]

/-- R107: volume and coefficient registers, by offset from the core's block at 0x760 + c·0x28. -/
def volumeRows : List (Nat × (CoreId → Access → Instr)) :=
  [(0x0, .mvoll), (0x2, .mvolr), (0x4, .evoll), (0x6, .evolr),
   (0x8, .avoll), (0xA, .avolr), (0xC, .bvoll), (0xE, .bvolr),
   (0x10, .mvolxl), (0x12, .mvolxr), (0x14, .vIIR), (0x16, .vCOMB1),
   (0x18, .vCOMB2), (0x1A, .vCOMB3), (0x1C, .vCOMB4), (0x1E, .vWALL),
   (0x20, .vAPF1), (0x22, .vAPF2), (0x24, .vIN0), (0x26, .vIN1)]

/-- R108: shared registers, by address. -/
def sharedRows : List (Nat × (Access → Instr)) :=
  [(0x7C0, .spdifOut), (0x7C2, .irqstat), (0x7C6, .spdifMode), (0x7C8, .spdifMedia)]

/-- The entry of a table at an offset. -/
def rowAt {α : Type} : List (Nat × α) → Nat → Option α
  | [], _ => none
  | (k, x) :: rows, off => if k = off then some x else rowAt rows off

/-- The core of a register address below 0x760: address bit 10 (R104 to R106). -/
def coreOfAddress (r : Nat) : CoreId := if r < 0x400 then .core0 else .core1

/-- The register of one core's first 0x360 bytes at `off` (R103 to R106). -/
def coreRegisterAt (c : CoreId) (off : Nat) (acc : Access) : Option Instr :=
  if off < 0x180 then
    (rowAt voiceParamRows (off % 0x10)).map fun mk => mk c (Fin.ofNat 24 (off / 0x10)) acc
  else if off < 0x1C0 then (rowAt coreRows off).map fun mk => mk c acc
  else if off < 0x2E0 then
    (rowAt voiceAddressRows ((off - 0x1C0) % 0xC)).map fun mk =>
      mk c (Fin.ofNat 24 ((off - 0x1C0) / 0xC)) acc
  else if 0x2E4 ≤ off ∧ off < 0x33C then (rowAt reverbOffsetRows off).map fun mk => mk c acc
  else (rowAt coreRows2 off).map fun mk => mk c acc

/-- The register at address `r`, already masked (R103). -/
def registerAt (r : Nat) (acc : Access) : Option Instr :=
  if r < 0x760 then coreRegisterAt (coreOfAddress r) (r % 0x400) acc
  else if r < 0x788 then (rowAt volumeRows (r - 0x760)).map fun mk => mk .core0 acc
  else if r < 0x7B0 then (rowAt volumeRows (r - 0x788)).map fun mk => mk .core1 acc
  else (rowAt sharedRows r).map fun mk => mk acc

/-- The access that a register operation with address operand `a` is: the address is masked (R102), and an address without a register is `UNMAPPED` (R140). -/
def decodeRegister (a : Half) (acc : Access) : Instr :=
  let ra := a &&& 0x07FE
  (registerAt ra.toNat acc).getD (.unmapped ra acc)

/-- The field `cmd` of R100. -/
def wordCmd (t : TransWord) : BitVec 4 := t.extractLsb' 32 4

/-- The field `a` of R100. -/
def wordAddress (t : TransWord) : Half := t.extractLsb' 16 16

/-- The field `d` of R100. -/
def wordData (t : TransWord) : Half := t.extractLsb' 0 16

/-- The core operand `a[0]` of the DMA operations (R101). -/
def wordCore (t : TransWord) : CoreId := if (wordAddress t).getLsbD 0 then .core1 else .core0

/-- The decoder: operation codes of R101. Operand bits that R101 or R102 ignores are dropped (log 16). -/
def decode (t : TransWord) : Except DecodeError Instr :=
  match (wordCmd t).toNat with
  | 0 => .ok (decodeRegister (wordAddress t) .read)
  | 1 => .ok (decodeRegister (wordAddress t) (.write (wordData t)))
  | 2 => .ok (.run (wordData t))
  | 3 => .ok (.runDma (wordCore t) (wordData t))
  | 4 => .ok (.dmaWr (wordCore t) (wordData t))
  | 5 => .ok (.dmaRd (wordCore t) (wordData t))
  | 6 => .ok .reset
  | _ => .error (.reservedOperation (wordCmd t))

/-- The instruction read from the bits `w` of a table row of `nbits` bits: the block's one format is 36 bits, so bits above bit 35 must be clear (log 8). -/
def decodeTableWord (_nbits w : Nat) : Option Instr :=
  if w < 2 ^ 36 then
    match decode (BitVec.ofNat 36 w) with
    | .ok i => some i
    | .error _ => none
  else none

/-! ## The encoder -/

/-- A transaction word from its fields (R100). -/
def packWord (cmd : BitVec 4) (a d : Half) : TransWord := (cmd ++ a) ++ d

/-- The word of a register access at address `ra` (R101): a read carries data 0, as the script of R135 writes it. -/
def registerWord (ra : Nat) : Access → TransWord
  | .read => packWord 0 (BitVec.ofNat 16 ra) 0
  | .write d => packWord 1 (BitVec.ofNat 16 ra) d

/-- R104: the address of voice parameter register `off` of voice `v` of core `c`. -/
def voiceParamAddress (c : CoreId) (v : VoiceId) (off : Nat) : Nat := c.num * 0x400 + v.val * 0x10 + off

/-- R105: the address of voice address half `off` of voice `v` of core `c`. -/
def voiceHalfAddress (c : CoreId) (v : VoiceId) (off : Nat) : Nat :=
  c.num * 0x400 + 0x1C0 + v.val * 0xC + off

/-- R106: the address of core register `off` of core `c`. -/
def coreAddress (c : CoreId) (off : Nat) : Nat := c.num * 0x400 + off

/-- R107: the address of volume or coefficient register `off` of core `c`. -/
def volumeAddress (c : CoreId) (off : Nat) : Nat := 0x760 + c.num * 0x28 + off

/-- The address operand of an operation on core `c` (R101). -/
def coreOperand (c : CoreId) : Half := BitVec.ofNat 16 c.num

/-- The transaction word of an operation, with every ignored operand bit clear. -/
def encode : Instr → TransWord
  | .voll c v a => registerWord (voiceParamAddress c v 0x0) a
  | .volr c v a => registerWord (voiceParamAddress c v 0x2) a
  | .pitch c v a => registerWord (voiceParamAddress c v 0x4) a
  | .adsr1 c v a => registerWord (voiceParamAddress c v 0x6) a
  | .adsr2 c v a => registerWord (voiceParamAddress c v 0x8) a
  | .envx c v a => registerWord (voiceParamAddress c v 0xA) a
  | .volxl c v a => registerWord (voiceParamAddress c v 0xC) a
  | .volxr c v a => registerWord (voiceParamAddress c v 0xE) a
  | .ssaH c v a => registerWord (voiceHalfAddress c v 0x0) a
  | .ssaL c v a => registerWord (voiceHalfAddress c v 0x2) a
  | .lsaH c v a => registerWord (voiceHalfAddress c v 0x4) a
  | .lsaL c v a => registerWord (voiceHalfAddress c v 0x6) a
  | .naxH c v a => registerWord (voiceHalfAddress c v 0x8) a
  | .naxL c v a => registerWord (voiceHalfAddress c v 0xA) a
  | .pmonL c a => registerWord (coreAddress c 0x180) a
  | .pmonH c a => registerWord (coreAddress c 0x182) a
  | .nonL c a => registerWord (coreAddress c 0x184) a
  | .nonH c a => registerWord (coreAddress c 0x186) a
  | .vmixlL c a => registerWord (coreAddress c 0x188) a
  | .vmixlH c a => registerWord (coreAddress c 0x18A) a
  | .vmixelL c a => registerWord (coreAddress c 0x18C) a
  | .vmixelH c a => registerWord (coreAddress c 0x18E) a
  | .vmixrL c a => registerWord (coreAddress c 0x190) a
  | .vmixrH c a => registerWord (coreAddress c 0x192) a
  | .vmixerL c a => registerWord (coreAddress c 0x194) a
  | .vmixerH c a => registerWord (coreAddress c 0x196) a
  | .mmix c a => registerWord (coreAddress c 0x198) a
  | .attr c a => registerWord (coreAddress c 0x19A) a
  | .irqaH c a => registerWord (coreAddress c 0x19C) a
  | .irqaL c a => registerWord (coreAddress c 0x19E) a
  | .konL c a => registerWord (coreAddress c 0x1A0) a
  | .konH c a => registerWord (coreAddress c 0x1A2) a
  | .koffL c a => registerWord (coreAddress c 0x1A4) a
  | .koffH c a => registerWord (coreAddress c 0x1A6) a
  | .tsaH c a => registerWord (coreAddress c 0x1A8) a
  | .tsaL c a => registerWord (coreAddress c 0x1AA) a
  | .unmapped ra a => registerWord ra.toNat a
  | .admas c a => registerWord (coreAddress c 0x1B0) a
  | .esaH c a => registerWord (coreAddress c 0x2E0) a
  | .esaL c a => registerWord (coreAddress c 0x2E2) a
  | .dAPF0_H c a => registerWord (coreAddress c 0x2E4) a
  | .dAPF0_L c a => registerWord (coreAddress c 0x2E6) a
  | .dAPF1_H c a => registerWord (coreAddress c 0x2E8) a
  | .dAPF1_L c a => registerWord (coreAddress c 0x2EA) a
  | .mSAME0_H c a => registerWord (coreAddress c 0x2EC) a
  | .mSAME0_L c a => registerWord (coreAddress c 0x2EE) a
  | .mSAME1_H c a => registerWord (coreAddress c 0x2F0) a
  | .mSAME1_L c a => registerWord (coreAddress c 0x2F2) a
  | .mCOMB1_0_H c a => registerWord (coreAddress c 0x2F4) a
  | .mCOMB1_0_L c a => registerWord (coreAddress c 0x2F6) a
  | .mCOMB1_1_H c a => registerWord (coreAddress c 0x2F8) a
  | .mCOMB1_1_L c a => registerWord (coreAddress c 0x2FA) a
  | .mCOMB2_0_H c a => registerWord (coreAddress c 0x2FC) a
  | .mCOMB2_0_L c a => registerWord (coreAddress c 0x2FE) a
  | .mCOMB2_1_H c a => registerWord (coreAddress c 0x300) a
  | .mCOMB2_1_L c a => registerWord (coreAddress c 0x302) a
  | .dSAME0_H c a => registerWord (coreAddress c 0x304) a
  | .dSAME0_L c a => registerWord (coreAddress c 0x306) a
  | .dSAME1_H c a => registerWord (coreAddress c 0x308) a
  | .dSAME1_L c a => registerWord (coreAddress c 0x30A) a
  | .mDIFF0_H c a => registerWord (coreAddress c 0x30C) a
  | .mDIFF0_L c a => registerWord (coreAddress c 0x30E) a
  | .mDIFF1_H c a => registerWord (coreAddress c 0x310) a
  | .mDIFF1_L c a => registerWord (coreAddress c 0x312) a
  | .mCOMB3_0_H c a => registerWord (coreAddress c 0x314) a
  | .mCOMB3_0_L c a => registerWord (coreAddress c 0x316) a
  | .mCOMB3_1_H c a => registerWord (coreAddress c 0x318) a
  | .mCOMB3_1_L c a => registerWord (coreAddress c 0x31A) a
  | .mCOMB4_0_H c a => registerWord (coreAddress c 0x31C) a
  | .mCOMB4_0_L c a => registerWord (coreAddress c 0x31E) a
  | .mCOMB4_1_H c a => registerWord (coreAddress c 0x320) a
  | .mCOMB4_1_L c a => registerWord (coreAddress c 0x322) a
  | .dDIFF0_H c a => registerWord (coreAddress c 0x324) a
  | .dDIFF0_L c a => registerWord (coreAddress c 0x326) a
  | .dDIFF1_H c a => registerWord (coreAddress c 0x328) a
  | .dDIFF1_L c a => registerWord (coreAddress c 0x32A) a
  | .mAPF1_0_H c a => registerWord (coreAddress c 0x32C) a
  | .mAPF1_0_L c a => registerWord (coreAddress c 0x32E) a
  | .mAPF1_1_H c a => registerWord (coreAddress c 0x330) a
  | .mAPF1_1_L c a => registerWord (coreAddress c 0x332) a
  | .mAPF2_0_H c a => registerWord (coreAddress c 0x334) a
  | .mAPF2_0_L c a => registerWord (coreAddress c 0x336) a
  | .mAPF2_1_H c a => registerWord (coreAddress c 0x338) a
  | .mAPF2_1_L c a => registerWord (coreAddress c 0x33A) a
  | .eeaH c a => registerWord (coreAddress c 0x33C) a
  | .eeaL c a => registerWord (coreAddress c 0x33E) a
  | .endxL c a => registerWord (coreAddress c 0x340) a
  | .endxH c a => registerWord (coreAddress c 0x342) a
  | .statx c a => registerWord (coreAddress c 0x344) a
  | .mvoll c a => registerWord (volumeAddress c 0x0) a
  | .mvolr c a => registerWord (volumeAddress c 0x2) a
  | .evoll c a => registerWord (volumeAddress c 0x4) a
  | .evolr c a => registerWord (volumeAddress c 0x6) a
  | .avoll c a => registerWord (volumeAddress c 0x8) a
  | .avolr c a => registerWord (volumeAddress c 0xA) a
  | .bvoll c a => registerWord (volumeAddress c 0xC) a
  | .bvolr c a => registerWord (volumeAddress c 0xE) a
  | .mvolxl c a => registerWord (volumeAddress c 0x10) a
  | .mvolxr c a => registerWord (volumeAddress c 0x12) a
  | .vIIR c a => registerWord (volumeAddress c 0x14) a
  | .vCOMB1 c a => registerWord (volumeAddress c 0x16) a
  | .vCOMB2 c a => registerWord (volumeAddress c 0x18) a
  | .vCOMB3 c a => registerWord (volumeAddress c 0x1A) a
  | .vCOMB4 c a => registerWord (volumeAddress c 0x1C) a
  | .vWALL c a => registerWord (volumeAddress c 0x1E) a
  | .vAPF1 c a => registerWord (volumeAddress c 0x20) a
  | .vAPF2 c a => registerWord (volumeAddress c 0x22) a
  | .vIN0 c a => registerWord (volumeAddress c 0x24) a
  | .vIN1 c a => registerWord (volumeAddress c 0x26) a
  | .spdifOut a => registerWord 0x7C0 a
  | .irqstat a => registerWord 0x7C2 a
  | .spdifMode a => registerWord 0x7C6 a
  | .spdifMedia a => registerWord 0x7C8 a
  | .run n => packWord 2 0 n
  | .runDma c n => packWord 3 (coreOperand c) n
  | .dmaWr c n => packWord 4 (coreOperand c) n
  | .dmaRd c n => packWord 5 (coreOperand c) n
  | .reset => packWord 6 0 0

end Sys2Proof
end

