-- ==== Sys2Proof/Machine/Arith.lean ====
section
/-! DEFINITION. The arithmetic of 00_scope R10 and R11: expressions are exact integers, and only the conversions named here narrow them. -/

namespace Sys2Proof.Machine

/-- `asr(v, n)`: the floor of `v / 2^n` (R10, 92 D37). -/
def asr (v : Int) (n : Nat) : Int := v / 2 ^ n

/-- `clamp(v, lo, hi)` (R11). -/
def clamp (v lo hi : Int) : Int := max lo (min hi v)

/-- `clamp16(v)`, as the bits of the `s16` it is (R11). -/
def clamp16 (v : Int) : Half := BitVec.ofInt 16 (clamp v (-0x8000) 0x7FFF)

/-- `sat_add(a, b)` (R11). -/
def satAdd (a b : Half) : Half := clamp16 (a.toInt + b.toInt)

/-- `sat_sub(a, b)` (R11). -/
def satSub (a b : Half) : Half := clamp16 (a.toInt - b.toInt)

/-- `mulsh(a, b, n)`: the exact product shifted, without saturation (R11). -/
def mulsh (a b : Int) (n : Nat) : Int := asr (a * b) n

/-- `sat_mul(a, b)` (R11): a product with a 1.15 fixed-point factor. -/
def satMul (a b : Half) : Half := clamp16 (mulsh a.toInt b.toInt 15)

end Sys2Proof.Machine
end

