-- ==== Sys2Proof/Config.lean ====
section
/-! DEFINITION. The open parameters of spec/00_scope.md rule R7 as one record, and the free values.
The record stands in the machine's state as data that no operation writes (log 1), so a statement about every state is a statement about every choice of the parameters. -/

namespace Sys2Proof

/-- A natural number of at least `b`, held as what it exceeds `b` by, so that the bound of R7 holds by construction. -/
structure AtLeast (b : Nat) where
  excess : Nat
deriving DecidableEq, Repr, Inhabited

/-- The number itself. -/
def AtLeast.val {b : Nat} (x : AtLeast b) : Nat := b + x.excess

/-- The units whose RAM accesses can be compared with the interrupt address (60_exceptions R443). -/
inductive IrqSource where
  | voice
  | reverb
  | capture
  | memin
  | dma
deriving DecidableEq, Repr, Inhabited

/-- `IRQ_SOURCES`: a subset of the five sources (R7, 92 D22). -/
structure IrqSources where
  voice : Bool
  reverb : Bool
  capture : Bool
  memin : Bool
  dma : Bool
deriving DecidableEq, Repr, Inhabited

/-- Membership in `IRQ_SOURCES`. -/
def IrqSources.has (s : IrqSources) : IrqSource → Bool
  | .voice => s.voice
  | .reverb => s.reverb
  | .capture => s.capture
  | .memin => s.memin
  | .dma => s.dma

/-- The eight output-capture areas (20_memory R76). -/
inductive CaptureArea where
  | sinL
  | sinR
  | voice1
  | voice3
  | dryL
  | dryR
  | wetL
  | wetR
deriving DecidableEq, Repr, Inhabited

/-- `CAPTURE_SET`: a subset of the eight capture areas (R7, 92 D23). -/
structure CaptureSet where
  sinL : Bool
  sinR : Bool
  voice1 : Bool
  voice3 : Bool
  dryL : Bool
  dryR : Bool
  wetL : Bool
  wetR : Bool
deriving DecidableEq, Repr, Inhabited

/-- Membership in `CAPTURE_SET`. -/
def CaptureSet.has (s : CaptureSet) : CaptureArea → Bool
  | .sinL => s.sinL
  | .sinR => s.sinR
  | .voice1 => s.voice1
  | .voice3 => s.voice3
  | .dryL => s.dryL
  | .dryR => s.dryR
  | .wetL => s.wetL
  | .wetR => s.wetR

/-- `BUILD` (R7, 60_exceptions R447): what an access to an unmapped register does. -/
inductive Build where
  | release
  | debug
deriving DecidableEq, Repr, Inhabited

/-- 256 rows of 4 signed 16-bit coefficients (43_interp_pitch_noise R291). -/
abbrev GaussRows := Vector (Vector Half 4) 256

/-- The sum of a row (R291). -/
def gaussRowSum (row : Vector Half 4) : Int := row[0].toInt + row[1].toInt + row[2].toInt + row[3].toInt

/-- What a supplied table must satisfy (R291): every row sum is within 1 of one constant. The constant is within 1 of the sum of row 0, so three candidates decide it. -/
def gaussNormalised (rows : GaussRows) : Bool :=
  [-1, 0, 1].any fun d =>
    rows.toList.all fun row => decide ((gaussRowSum row - (gaussRowSum rows[0] + d)).natAbs ≤ 1)

/-- `GAUSS` (R291): a table that satisfies its condition. -/
structure GaussTable where
  rows : GaussRows
  normalised : gaussNormalised rows = true
deriving DecidableEq, Repr

/-- The table of all zeros. -/
def GaussTable.zero : GaussTable := ⟨Vector.replicate 256 (Vector.replicate 4 0), by decide +kernel⟩

/-- The table with the given rows; rows that are not normalised are no table of the chip, and zeros stand in for them (log 19). -/
def GaussTable.ofRows (rows : GaussRows) : GaussTable :=
  if h : gaussNormalised rows = true then ⟨rows, h⟩ else GaussTable.zero

/-- The open parameters of R7. -/
structure Config where
  /-- `TICK_CYCLES`: cycles of `RUN` in one sample tick. -/
  tickCycles : AtLeast 1
  /-- `DMA_START_CYCLES`: the countdown a DMA start loads. -/
  dmaStartCycles : AtLeast 1
  /-- `DMA_BURST_CYCLES`: the countdown a burst loads. -/
  dmaBurstCycles : AtLeast 1
  /-- `ADPCM_COEF`: the five coefficient pairs of the ADPCM filters (log 21). -/
  adpcmCoef : Vector (Int × Int) 5
  /-- `GAUSS`: the interpolation table. -/
  gauss : GaussTable
  /-- `FIR39`, which R7 requires to be symmetric, held as its taps 0..19: tap `k` above 19 is tap `38 - k` (log 14). -/
  firHalf : Vector Half 20
  /-- `RVB_DOWN_SHIFT`. -/
  rvbDownShift : Nat
  /-- `RVB_UP_SHIFT`. -/
  rvbUpShift : Nat
  /-- `IRQ_SOURCES`. -/
  irqSources : IrqSources
  /-- `CAPTURE_SET`. -/
  captureSet : CaptureSet
  /-- `EXT_IN`: core 0's sound-in in every tick for which no sample is queued in `State.extIn` (log 10). -/
  extIn : Frame
  /-- `BUILD`. -/
  build : Build
  /-- `ENV_FRAC_BITS`: fraction bits of the envelope and the volume units. -/
  envFracBits : AtLeast 22
  /-- `RING_CAP`: capacity of a voice's sample buffer. -/
  ringCap : AtLeast 19
deriving DecidableEq, Repr

/-- The 39 taps of `FIR39` in order, from the 20 that the symmetry leaves free. -/
def Config.firTaps (cfg : Config) : List Half :=
  cfg.firHalf.toList ++ (cfg.firHalf.toList.take 19).reverse

/-- FREE VALUE: what byte `a` of the RAM holds when nothing has written it (70_reset R472, 93 U1: any value; log 3). -/
opaque Config.powerOnByte : Nat → Byte

/-- FREE VALUE: word `i` of a host stream that the host did not supply, in operation number `n` (93 U14 says this cannot occur; log 6). -/
opaque Config.missingHostWord : Nat → Nat → Half

/-- FREE VALUE: the rows of the interpolation table of the chip, of which R291 gives no entry (93 U6; log 2). -/
opaque Config.gaussRows : GaussRows

/-- The interpolation table of the chip: free but for the condition of R291 (log 2, log 19). -/
def Config.gaussTable : GaussTable := .ofRows Config.gaussRows

end Sys2Proof
end

