-- ==== Sys2Proof/Machine/Parameters.lean ====
section
/-! DEFINITION. The values of the open parameters that State.reset takes: the default column of 00_scope R7 (log 1), and for `GAUSS`, which has no default, a table without a value (log 2). No statement rests on them. -/

namespace Sys2Proof.Machine

/-- The default `ADPCM_COEF` (R7). -/
def adpcmCoefDefault : Vector (Int × Int) 5 :=
  ⟨#[(0, 0), (60, 0), (115, -52), (98, -55), (122, -60)], rfl⟩

/-- Taps 0..19 of the default `FIR39` (44_reverb R323). -/
def firHalfDefault : Vector Half 20 :=
  ⟨#[0xFFFF, 0, 0x0002, 0, 0xFFF6, 0, 0x0023, 0, 0xFF99, 0,
     0x010A, 0, 0xFD98, 0, 0x0534, 0, 0xF470, 0, 0x2806, 0x4000], rfl⟩

/-- The parameters with the defaults of R7 and a given interpolation table. -/
def configWith (gauss : GaussTable) : Config where
  tickCycles := ⟨767⟩
  dmaStartCycles := ⟨0⟩
  dmaBurstCycles := ⟨0⟩
  adpcmCoef := adpcmCoefDefault
  gauss := gauss
  firHalf := firHalfDefault
  rvbDownShift := 15
  rvbUpShift := 14
  irqSources := ⟨true, true, false, false, false⟩
  captureSet := ⟨true, true, true, true, true, true, true, true⟩
  extIn := ⟨0, 0⟩
  build := .release
  envFracBits := ⟨2⟩
  ringCap := ⟨13⟩

/-- The parameters of State.reset. -/
def resetConfig : Config := configWith Config.gaussTable

/-- Row `r` of `GAUSS_LIN`, the stand-in table of the spec's test vectors (43_interp_pitch_noise R292). -/
def gaussLinRow (r : Nat) : Vector Half 4 :=
  ⟨#[0, BitVec.ofNat 16 (0x7F00 - 0x7F * r), BitVec.ofNat 16 (0x7F * r), 0], rfl⟩

/-- `GAUSS_LIN` (R292). -/
def gaussLin : GaussTable where
  rows := ⟨((List.range 256).map gaussLinRow).toArray, by simp⟩
  normalised := by decide +kernel

end Sys2Proof.Machine
end

