-- ==== Sys2Proof/Machine/State.lean ====
section
/-! DEFINITION. The state of the block (spec/10_state.md), as plain data, and its value after reset (70_reset R471). -/

namespace Sys2Proof.Machine

/-! ## Voices -/

/-- The five phases of the envelope (10_state R46). -/
inductive Phase where
  | attack
  | decay
  | sustain
  | release
  | stopped
deriving DecidableEq, Repr, Inhabited

/-- A volume unit (R47): the register as written, the volume applied (`s16`), and the fraction below it. -/
structure VolUnit where
  reg : Half
  level : Half
  frac : Nat
deriving DecidableEq, Repr, Inhabited

/-- The envelope of a voice (R46): phase, level (`s16` within 0..0x7FFF) and the fraction below the level. -/
structure Envelope where
  phase : Phase
  level : Half
  frac : Nat
deriving DecidableEq, Repr, Inhabited

/-- One voice (R42 to R48). -/
structure Voice where
  /-- `VOL[L]`, `VOL[R]` (R42, R47). -/
  vol : Pair VolUnit
  pitch : Half
  adsr1 : Half
  adsr2 : Half
  /-- Sample start address (R43). -/
  ssa : RamAddr
  /-- Loop start address (R43). -/
  lsa : RamAddr
  /-- Read cursor (R43). -/
  nax : RamAddr
  /-- The most recent decoded sample, and the one before it (R44). -/
  hist1 : Half
  hist2 : Half
  /-- The last block header read (R44). -/
  hdr : Half
  /-- The decoded samples not yet consumed, oldest first (R44, 42_adpcm R260). -/
  buf : List Half
  /-- The custom-loop latch (R44). -/
  customLoop : Bool
  /-- The fractional pitch counter (R45). -/
  counter : BitVec 12
  env : Envelope
  /-- The post-envelope output of the most recent tick (R48). -/
  out : Half
deriving DecidableEq, Repr, Inhabited

/-! ## Cores -/

/-- The working state of the reverb (R37); the histories hold 39 values each, the newest first. -/
structure RvbWork where
  pos : RamAddr
  phase : Side
  down : Pair (Vector Half 39)
  up : Pair (Vector Half 39)
deriving DecidableEq, Repr, Inhabited

/-- The noise generator (R38). -/
structure Noise where
  level : Half
  timer : Int
deriving DecidableEq, Repr, Inhabited

/-- Direction of a DMA transfer (R40); `write` is host to RAM. -/
inductive DmaDir where
  | write
  | read
deriving DecidableEq, Repr, Inhabited

/-- The DMA engine (R40), with the host stream of the write transfer in progress (46_dma R401). -/
structure Dma where
  dir : DmaDir
  size : Nat
  count : Int
  hostPos : Nat
  stream : List Half
deriving DecidableEq, Repr, Inhabited

/-- The Auto-DMA sequence counters (R41): bursts still to do, the half being filled (`false` is half 0), and a refill requested while draining. -/
structure Adma where
  left : Fin 17
  half : Bool
  pending : Bool
deriving DecidableEq, Repr, Inhabited

/-- The eleven reverb offset pairs (R36), in the address order of 30_encoding R125. -/
inductive RvbOffset where
  | dAPF
  | mSAME
  | mCOMB1
  | mCOMB2
  | dSAME
  | mDIFF
  | mCOMB3
  | mCOMB4
  | dDIFF
  | mAPF1
  | mAPF2
deriving DecidableEq, Repr, Inhabited

/-- The ten reverb coefficients (R36), in the address order of 30_encoding R107. -/
inductive RvbCoef where
  | vIIR
  | vCOMB1
  | vCOMB2
  | vCOMB3
  | vCOMB4
  | vWALL
  | vAPF1
  | vAPF2
  | vIN0
  | vIN1
deriving DecidableEq, Repr, Inhabited

/-- One core (R25 to R41). -/
structure Core where
  pmon : VoiceMask
  non : VoiceMask
  vmixl : VoiceMask
  vmixel : VoiceMask
  vmixr : VoiceMask
  vmixer : VoiceMask
  mmix : Half
  attr : Half
  irqa : RamAddr
  /-- Pending key-on and key-off events (R30). -/
  kon : VoiceMask
  koff : VoiceMask
  /-- The transfer address as written, and the RAM cursor of the DMA engine (R31). -/
  tsa : RamAddr
  taddr : RamAddr
  admas : Half
  endx : VoiceMask
  /-- Master volume units, and the effect, external and memory volumes (R35). -/
  mvol : Pair VolUnit
  evol : Pair Half
  avol : Pair Half
  bvol : Pair Half
  esa : RamAddr
  eea : RamAddr
  /-- The 22 reverb offset registers, numbered as R125 numbers them. -/
  offs : Vector RamAddr 22
  /-- The 10 reverb coefficients, in the order of R107. -/
  coefs : Vector Half 10
  rvb : RvbWork
  noise : Noise
  /-- The position in the capture and input areas (R39). -/
  outPos : BitVec 9
  dma : Dma
  adma : Adma
  voices : Vector Voice 24
deriving DecidableEq, Repr, Inhabited

/-! ## Shared state -/

/-- The RAM (R20) as the bytes something has written: byte addresses strictly rising, word `w` at byte addresses `2w` (low byte) and `2w + 1` (log 3, log 4). -/
abbrev Memory := List Host.Cell

/-- The shared interrupt status (R21). -/
structure IrqStat where
  cause0 : Bool
  cause1 : Bool
  half : Bool
deriving DecidableEq, Repr, Inhabited

/-- The observables of 00_scope R17, as the log holds them. -/
inductive Event where
  /-- The operation that the events recorded after it belong to (log 7). -/
  | operation (t : TransWord)
  /-- The value a `REGRD` returns. -/
  | readData (d : Half)
  /-- The stereo frame of one tick pair (45_mixer R364). -/
  | frame (o : Frame)
  /-- The signal `Irq(c)` (60_exceptions R444). -/
  | irq (c : CoreId)
  /-- The signal `DmaDone(c)` (60_exceptions R446). -/
  | dmaDone (c : CoreId)
  /-- A word that a `DMARD` of core `c` delivers to the host (46_dma R403). -/
  | dmaWord (c : CoreId) (d : Half)
deriving DecidableEq, Repr

/-- What a sample tick or a DMA burst can touch: the RAM, the interrupt status, the two cores, and the record of what has been observed, the newest event first. -/
structure Engine where
  ram : Memory
  irqstat : IrqStat
  core0 : Core
  core1 : Core
  log : List Event
deriving DecidableEq, Repr

/-- The SPDIF storage registers (R22). -/
structure Spdif where
  out : Half
  mode : Half
  media : Half
deriving DecidableEq, Repr, Inhabited

/-- The last access to an unmapped register (R24): its masked address and direction. -/
structure UnmappedAccess where
  ra : Half
  isWrite : Bool
deriving DecidableEq, Repr, Inhabited

/-- `G.FAULT`, the sticky diagnostics (R24). `badPhase` is never set: the phase is a five-valued type (60_exceptions R448, log 13). -/
structure FaultRecord where
  unmapped : Option UnmappedAccess
  badPhase : Bool
deriving DecidableEq, Repr, Inhabited

/-- An operation the host has issued: its transaction word, and the words it supplies with it (30_encoding R101, sideband of `DMAWR`). -/
structure Transaction where
  word : TransWord
  supply : List Half
deriving DecidableEq, Repr, Inhabited

/-- The whole state. -/
structure State where
  /-- The open parameters, which no operation writes (log 1). -/
  cfg : Config
  engine : Engine
  spdif : Spdif
  /-- The cycle accumulator of `RUN` (R23). -/
  runAcc : Nat
  fault : FaultRecord
  /-- The operations issued and not yet performed, the oldest first (log 5). -/
  pending : List Transaction
  /-- The words supplied with the operation being performed (log 6). -/
  supply : List Half
  /-- Samples waiting at core 0's external input, the next first (log 10). -/
  extIn : List Frame
  /-- Operations accepted so far; it numbers free values (log 6). -/
  opCount : Nat
deriving DecidableEq, Repr

/-! ## Outcomes other than a next state -/

/-- The faults of the block. -/
inductive Fault where
  /-- Raised by an access to an unmapped register where `BUILD` is `debug` (60_exceptions R447): the model stops. Safe: the debug build of the source stops there too. -/
  | unmappedRegister (ra : Half) (isWrite : Bool)
deriving DecidableEq, Repr

/-- The refusals. -/
inductive Refusal where
  /-- Raised by exec's arm of an instruction that has no meaning yet. Safe: nothing is claimed of it. -/
  | notModelled (mnemonic : String)
  /-- Raised by step on a transaction word whose operation code is 7..15 (30_encoding R126 (c)). Safe: such a word is no operation. -/
  | reservedOperation (cmd : BitVec 4)
deriving DecidableEq, Repr

/-- The outcome of an operation. -/
abbrev Result := Host.Outcome State Fault Refusal

/-! ## Reset (70_reset R471) -/

/-- A volume unit after reset. -/
def VolUnit.reset : VolUnit := { reg := 0, level := 0, frac := 0 }

/-- An envelope after reset: Stopped, level and fraction 0. -/
def Envelope.reset : Envelope := { phase := .stopped, level := 0, frac := 0 }

/-- A voice after reset. -/
def Voice.reset : Voice where
  vol := ⟨VolUnit.reset, VolUnit.reset⟩
  pitch := 0
  adsr1 := 0
  adsr2 := 0
  ssa := 0
  lsa := 0
  nax := 0
  hist1 := 0
  hist2 := 0
  hdr := 0
  buf := []
  customLoop := false
  counter := 0
  env := Envelope.reset
  out := 0

/-- The reverb's working state after reset. -/
def RvbWork.reset : RvbWork where
  pos := 0
  phase := .left
  down := ⟨Vector.replicate 39 0, Vector.replicate 39 0⟩
  up := ⟨Vector.replicate 39 0, Vector.replicate 39 0⟩

/-- A DMA engine after reset: Write, Idle. -/
def Dma.reset : Dma := { dir := .write, size := 0, count := 0, hostPos := 0, stream := [] }

/-- The Auto-DMA counters after reset. -/
def Adma.reset : Adma := { left := 0, half := false, pending := false }

/-- A core after reset. -/
def Core.reset : Core where
  pmon := 0
  non := 0
  vmixl := 0
  vmixel := 0
  vmixr := 0
  vmixer := 0
  mmix := 0
  attr := 0
  irqa := 0
  kon := 0
  koff := 0
  tsa := 0
  taddr := 0
  admas := 0
  endx := 0
  mvol := ⟨VolUnit.reset, VolUnit.reset⟩
  evol := ⟨0, 0⟩
  avol := ⟨0, 0⟩
  bvol := ⟨0, 0⟩
  esa := 0
  eea := 0
  offs := Vector.replicate 22 0
  coefs := Vector.replicate 10 0
  rvb := RvbWork.reset
  noise := { level := 0, timer := 0 }
  outPos := 0
  dma := Dma.reset
  adma := Adma.reset
  voices := Vector.replicate 24 Voice.reset

/-- The interrupt status after reset. -/
def IrqStat.reset : IrqStat := { cause0 := false, cause1 := false, half := false }

/-- The SPDIF registers after reset. -/
def Spdif.reset : Spdif := { out := 0, mode := 0, media := 0 }

/-- The diagnostics after reset: clear. -/
def FaultRecord.reset : FaultRecord := { unmapped := none, badPhase := false }

/-- The block as constructed with parameters `cfg`: every element at its value of R471, a RAM that nothing has written, and nothing issued by the host. -/
def State.powerOn (cfg : Config) : State where
  cfg := cfg
  engine :=
    { ram := []
      irqstat := IrqStat.reset
      core0 := Core.reset
      core1 := Core.reset
      log := [] }
  spdif := Spdif.reset
  runAcc := 0
  fault := FaultRecord.reset
  pending := []
  supply := []
  extIn := []
  opCount := 0

/-- The machine right after reset. -/
def State.reset : State := State.powerOn resetConfig

end Sys2Proof.Machine
end

