-- ==== Sys2Proof/Machine/Operands.lean ====
section
/-! DEFINITION. Operand assembly (30_encoding R111, R112) and the bit fields inside registers, block headers and data words (R116 to R122, R130, R131). The layouts are tables of bit positions (92, preface). -/

namespace Sys2Proof.Machine

/-! ## Registers of two halves -/

/-- Bits 15..0 of a mask: voices 0..15 (R111). -/
def maskLow (m : VoiceMask) : Half := m.extractLsb' 0 16

/-- Bits 23..16 of a mask in bits 7..0; bits 15..8 read 0 (R111). -/
def maskHigh (m : VoiceMask) : Half := (m.extractLsb' 16 8).zeroExtend 16

/-- A mask with its low half written (R111). -/
def setMaskLow (m : VoiceMask) (d : Half) : VoiceMask := m.extractLsb' 16 8 ++ d

/-- A mask with its high half written: bits 15..8 of the data are ignored (R111). -/
def setMaskHigh (m : VoiceMask) (d : Half) : VoiceMask := d.extractLsb' 0 8 ++ m.extractLsb' 0 16

/-- Address bits 19..16 in bits 3..0; bits 15..4 read 0 (R112). -/
def addrHigh (a : RamAddr) : Half := (a.extractLsb' 16 4).zeroExtend 16

/-- Address bits 15..0 (R112). -/
def addrLow (a : RamAddr) : Half := a.extractLsb' 0 16

/-- An address with its high half written: bits 15..4 of the data are ignored (R112). -/
def setAddrHigh (a : RamAddr) (d : Half) : RamAddr := d.extractLsb' 0 4 ++ a.extractLsb' 0 16

/-- An address with its low half written (R112). -/
def setAddrLow (a : RamAddr) (d : Half) : RamAddr := a.extractLsb' 16 4 ++ d

/-- A key mask with the events of a low-half write queued (40_register_access R168). -/
def queueMaskLow (m : VoiceMask) (d : Half) : VoiceMask := m ||| d.zeroExtend 24

/-- A key mask with the events of a high-half write queued (40_register_access R168). -/
def queueMaskHigh (m : VoiceMask) (d : Half) : VoiceMask :=
  m ||| ((d.extractLsb' 0 8).zeroExtend 24 <<< 16)

/-- Bit `v` of a mask. -/
def voiceBit (m : VoiceMask) (v : VoiceId) : Bool := m.getLsbD v.val

/-! ## Bit fields -/

/-- The bits `hi` down to `lo` of a 16-bit word (00_scope R9). -/
structure BitField where
  hi : Nat
  lo : Nat
deriving DecidableEq, Repr

/-- The field of a word, as an unsigned number. -/
def BitField.of (f : BitField) (r : Half) : Nat := r.toNat / 2 ^ f.lo % 2 ^ (f.hi - f.lo + 1)

/-- Whether a field of a word is not 0: a one-bit field as a flag. -/
def BitField.isSet (f : BitField) (r : Half) : Bool := f.of r != 0

/-! `ADSR1` (R116). -/

def attackExp : BitField := ⟨15, 15⟩
def attackShift : BitField := ⟨14, 10⟩
def attackStep : BitField := ⟨9, 8⟩
def decayShift : BitField := ⟨7, 4⟩
def sustainLevel : BitField := ⟨3, 0⟩

/-! `ADSR2` (R117). -/

def sustainExp : BitField := ⟨15, 15⟩
def sustainDec : BitField := ⟨14, 14⟩
def sustainShift : BitField := ⟨12, 8⟩
def sustainStep : BitField := ⟨7, 6⟩
def releaseExp : BitField := ⟨5, 5⟩
def releaseShift : BitField := ⟨4, 0⟩

/-! Volume registers (R118). -/

def volSweep : BitField := ⟨15, 15⟩
def volSwExp : BitField := ⟨14, 14⟩
def volSwDec : BitField := ⟨13, 13⟩
def volSwShift : BitField := ⟨6, 2⟩
def volSwStep : BitField := ⟨1, 0⟩

/-! `ATTR` (R120). -/

def attrNoiseClock : BitField := ⟨13, 8⟩
def attrEffectEnable : BitField := ⟨7, 7⟩
def attrIrqEnable : BitField := ⟨6, 6⟩

/-! `MMIX` (R121). -/

def mixVoice : Pair BitField := ⟨⟨11, 11⟩, ⟨10, 10⟩⟩
def mixVoiceWet : Pair BitField := ⟨⟨9, 9⟩, ⟨8, 8⟩⟩
def mixMemin : Pair BitField := ⟨⟨7, 7⟩, ⟨6, 6⟩⟩
def mixMeminWet : Pair BitField := ⟨⟨5, 5⟩, ⟨4, 4⟩⟩
def mixSin : Pair BitField := ⟨⟨3, 3⟩, ⟨2, 2⟩⟩
def mixSinWet : Pair BitField := ⟨⟨1, 1⟩, ⟨0, 0⟩⟩

/-- The Auto-DMA gate in `ADMAS`: bit `c` of core `c`'s register (R122). -/
def admasGate (c : CoreId) : BitField := ⟨c.num, c.num⟩

/-! The ADPCM block header (R131). -/

def hdrShift : BitField := ⟨3, 0⟩
def hdrFilter : BitField := ⟨6, 4⟩
def hdrLoopEnd : BitField := ⟨8, 8⟩
def hdrLoopRepeat : BitField := ⟨9, 9⟩
def hdrLoopStart : BitField := ⟨10, 10⟩

/-- The four samples of a data word in time order: the low nibble first (R130, 92 D7). -/
def dataNibbles (w : Half) : List (BitVec 4) :=
  [w.extractLsb' 0 4, w.extractLsb' 4 4, w.extractLsb' 8 4, w.extractLsb' 12 4]

/-! ## Reverb register numbers -/

/-- The number of an offset pair in the address order of R125. -/
def RvbOffset.num : RvbOffset → Nat
  | .dAPF => 0
  | .mSAME => 1
  | .mCOMB1 => 2
  | .mCOMB2 => 3
  | .dSAME => 4
  | .mDIFF => 5
  | .mCOMB3 => 6
  | .mCOMB4 => 7
  | .dDIFF => 8
  | .mAPF1 => 9
  | .mAPF2 => 10

/-- The register number (0..21) of R125: member `[0]` is the left one. -/
def offsetIndex (o : RvbOffset) (i : Side) : Fin 22 := Fin.ofNat 22 (2 * o.num + i.num)

/-- The place of a coefficient in the order of R107. -/
def RvbCoef.index : RvbCoef → Fin 10
  | .vIIR => 0
  | .vCOMB1 => 1
  | .vCOMB2 => 2
  | .vCOMB3 => 3
  | .vCOMB4 => 4
  | .vWALL => 5
  | .vAPF1 => 6
  | .vAPF2 => 7
  | .vIN0 => 8
  | .vIN1 => 9

/-- `vIN[ph]`. -/
def vIN : Side → RvbCoef
  | .left => .vIN0
  | .right => .vIN1

/-- The offset register `o[i]` of a core. -/
def Core.off (k : Core) (o : RvbOffset) (i : Side) : RamAddr := k.offs[offsetIndex o i]

/-- A core with the offset register `o[i]` replaced. -/
def Core.setOff (k : Core) (o : RvbOffset) (i : Side) (x : RamAddr) : Core :=
  { k with offs := k.offs.set (offsetIndex o i) x }

/-- The coefficient `n` of a core. -/
def Core.coef (k : Core) (n : RvbCoef) : Half := k.coefs[n.index]

/-- A core with the coefficient `n` replaced. -/
def Core.setCoef (k : Core) (n : RvbCoef) (x : Half) : Core :=
  { k with coefs := k.coefs.set n.index x }

/-! ## Fields of a core -/

/-- Voice `v` of a core. -/
def Core.voice (k : Core) (v : VoiceId) : Voice := k.voices[v]

/-- A core with voice `v` updated. -/
def Core.updVoice (k : Core) (v : VoiceId) (f : Voice → Voice) : Core :=
  { k with voices := k.voices.set v (f (k.voice v)) }

/-- A core with its reverb working state updated. -/
def Core.updRvb (k : Core) (f : RvbWork → RvbWork) : Core := { k with rvb := f k.rvb }

/-- A core with its DMA engine updated. -/
def Core.updDma (k : Core) (f : Dma → Dma) : Core := { k with dma := f k.dma }

/-- A core with its Auto-DMA counters updated. -/
def Core.updAdma (k : Core) (f : Adma → Adma) : Core := { k with adma := f k.adma }

/-- Run a per-voice action over all 24 voices in ascending order (45_mixer R363). -/
def forVoices (f : VoiceId → Core → Core) (k : Core) : Core := voiceIds.foldl (fun k v => f v k) k

/-- `ATTR.IrqEnable` (R120). -/
def Core.irqEnabled (k : Core) : Bool := attrIrqEnable.isSet k.attr

/-- `ATTR.EffectEnable`, the reverb's `m_Enable` (R120, 44_reverb R331). -/
def Core.effectEnabled (k : Core) : Bool := attrEffectEnable.isSet k.attr

/-- `AdmaActive(c)`: bit `c` of core `c`'s own `ADMAS` (46_dma, preface; R122). -/
def Core.admaActive (k : Core) (c : CoreId) : Bool := (admasGate c).isSet k.admas

/-- Whether a routing flag of `MMIX` is set, and what it lets through: the value, or 0 (45_mixer R374, R377). -/
def Core.route (k : Core) (flag : BitField) (x : Half) : Half := if flag.isSet k.mmix then x else 0

end Sys2Proof.Machine
end

