-- ==== Sys2Proof/Machine/Flags.lean ====
section
/-! DEFINITION. The status flags of 10_state R51: who sets, clears and reads each. `KON` and `KOFF` are queued by `queueMaskLow` and `queueMaskHigh`; `customLoop` is a field of the voice. -/

namespace Sys2Proof.Machine

/-- The mask with only bit `v` set. -/
def voiceMaskBit (v : VoiceId) : VoiceMask := 1#24 <<< v.val

/-- `ENDX[v] <- 1` (42_adpcm R270). -/
def Core.setEndx (k : Core) (v : VoiceId) : Core := { k with endx := k.endx ||| voiceMaskBit v }

/-- `ENDX[v] <- 0` (42_adpcm R275). -/
def Core.clearEndx (k : Core) (v : VoiceId) : Core := { k with endx := k.endx &&& ~~~(voiceMaskBit v) }

/-- `ENDX <- 0`, all 24 flags (40_register_access R173). -/
def Core.clearAllEndx (k : Core) : Core := { k with endx := 0 }

/-- The cause bit of core `c` (30_encoding R124). -/
def IrqStat.cause (s : IrqStat) : CoreId → Bool
  | .core0 => s.cause0
  | .core1 => s.cause1

/-- The status with the cause bit of core `c` replaced. -/
def IrqStat.setCause (s : IrqStat) (c : CoreId) (b : Bool) : IrqStat :=
  match c with
  | .core0 => { s with cause0 := b }
  | .core1 => { s with cause1 := b }

/-- `IRQSTAT` as read: `(cause[0] << 2) | (cause[1] << 3) | (half << 4)` (40_register_access R181). -/
def irqstatRead (s : IrqStat) : Half :=
  ((BitVec.ofBool s.cause0).zeroExtend 16 <<< 2) ||| ((BitVec.ofBool s.cause1).zeroExtend 16 <<< 3) |||
    ((BitVec.ofBool s.half).zeroExtend 16 <<< 4)

/-- `STATX` as read: `DmaReady` in bit 7, which is 1 when the engine is Idle (40_register_access R174, 30_encoding R123). -/
def statxRead (d : Dma) : Half := if d.size = 0 then 0x0080 else 0x0000

end Sys2Proof.Machine
end

