-- ==== Sys2Proof/Machine/Ops.lean ====
section
/-! DEFINITION. The named operations over the RAM, the cores, the observables and the registers, and the events of 60_exceptions.
The block takes no exception and returns from none (60_exceptions R450, R451): its one transfer to the host is a signal, raised by `raiseIrq` and `raiseDmaDone` here, and acknowledged by `acknowledgeIrq`. -/

namespace Sys2Proof.Machine

/-! ## RAM (10_state R20, 20_memory section 1) -/

/-- Bytes of RAM: 2^20 words of two bytes. -/
def ramBytes : Nat := 2 ^ 21

/-- The canonical form of the RAM: addresses strictly rising and inside the RAM. An address that is not listed has no value of its own in the list, so no entry can repeat one. -/
def Memory.wf : Memory → Bool
  | [] => true
  | [(a, _)] => decide (a < ramBytes)
  | (a, _) :: (b, y) :: m => decide (a < b) && Memory.wf ((b, y) :: m)

/-- The byte that was last written at an address; nothing for an address that nothing has written (log 3). -/
def readByte? : Memory → Nat → Option Byte
  | [], _ => none
  | (k, b) :: m, a => if k = a then some b else readByte? m a

/-- Write one byte, keeping the canonical form. -/
def writeByte : Memory → Nat → Byte → Memory
  | [], a, b => [(a, b)]
  | (k, x) :: m, a, b =>
    if a < k then (a, b) :: (k, x) :: m
    else if a = k then (a, b) :: m
    else (k, x) :: writeByte m a b

/-- What byte `a` of the RAM reads as: an address nothing has written holds an arbitrary value, the same at every read (70_reset R472, log 3). -/
def byteAt (m : Memory) (a : Nat) : Byte := (readByte? m a).getD (Config.powerOnByte a)

/-- The byte address of the low byte of a word; the high byte follows it (20_memory R73, log 4). -/
def lowByteAddr (a : RamAddr) : Nat := 2 * a.toNat

/-- `MemRead(a, 1)` (00_scope R13). -/
def ramRead (m : Memory) (a : RamAddr) : Half := byteAt m (lowByteAddr a + 1) ++ byteAt m (lowByteAddr a)

/-- `MemWrite(a, 1, d)` (00_scope R13). -/
def ramWrite (m : Memory) (a : RamAddr) (d : Half) : Memory :=
  writeByte (writeByte m (lowByteAddr a) (d.extractLsb' 0 8)) (lowByteAddr a + 1) (d.extractLsb' 8 8)

/-- `wrap_20` of a sum of an address and a number of words (20_memory R75). -/
def wrapAdd (a : RamAddr) (n : Nat) : RamAddr := a + BitVec.ofNat 20 n

/-! ## Cores and voices -/

/-- Core `c`. -/
def Engine.core (e : Engine) : CoreId → Core
  | .core0 => e.core0
  | .core1 => e.core1

/-- Core `c` updated. -/
def Engine.updCore (e : Engine) (c : CoreId) (f : Core → Core) : Engine :=
  match c with
  | .core0 => { e with core0 := f e.core0 }
  | .core1 => { e with core1 := f e.core1 }

/-- One word of RAM written. -/
def Engine.store (e : Engine) (a : RamAddr) (d : Half) : Engine := { e with ram := ramWrite e.ram a d }

/-- An observable recorded (log 7). -/
def Engine.emit (e : Engine) (x : Event) : Engine := { e with log := x :: e.log }

/-- Core `c` of the state. -/
def State.core (s : State) (c : CoreId) : Core := s.engine.core c

/-- Voice `v` of core `c` of the state. -/
def State.voice (s : State) (c : CoreId) (v : VoiceId) : Voice := (s.core c).voice v

/-- The state with core `c` updated. -/
def State.updCore (s : State) (c : CoreId) (f : Core → Core) : State :=
  { s with engine := s.engine.updCore c f }

/-- The state with voice `v` of core `c` updated. -/
def State.updVoice (s : State) (c : CoreId) (v : VoiceId) (f : Voice → Voice) : State :=
  s.updCore c fun k => k.updVoice v f

/-- The state with an observable recorded. -/
def State.emit (s : State) (x : Event) : State := { s with engine := s.engine.emit x }

/-! ## Signals (60_exceptions) -/

/-- `raise Irq(c)` (R444): the cause bit is set and the signal is sent, also when the bit is already set. -/
def raiseIrq (c : CoreId) (e : Engine) : Engine :=
  { e with irqstat := e.irqstat.setCause c true, log := .irq c :: e.log }

/-- `IrqTest(c, a, src)` (R443). -/
def irqTest (cfg : Config) (c : CoreId) (a : RamAddr) (src : IrqSource) (e : Engine) : Engine :=
  if cfg.irqSources.has src && (e.core c).irqEnabled && a == (e.core c).irqa then raiseIrq c e else e

/-- The host's acknowledgement: `cause[c] <- 0` (R445, 40_register_access R166). -/
def acknowledgeIrq (c : CoreId) (e : Engine) : Engine := { e with irqstat := e.irqstat.setCause c false }

/-- `raise DmaDone(c)` (R446): it changes no state of the block. -/
def raiseDmaDone (c : CoreId) (e : Engine) : Engine := e.emit (.dmaDone c)

/-- `raise Unmapped(ra, rw)` in the release build (R447): the sticky record of the last such access. -/
def recordUnmapped (ra : Half) (isWrite : Bool) (s : State) : State :=
  { s with fault := { s.fault with unmapped := some ⟨ra, isWrite⟩ } }

/-! ## Register access (40_register_access R140, R141) -/

/-- `REGRD` returning a value: no register read changes the block (20_memory R79). -/
def returnRead (s : State) (d : Half) : Result := .next (s.emit (.readData d))

/-- A register with its Read and Write parts. -/
def registerAccess (rd : State → Half) (wr : Half → State → State) (a : Access) (s : State) : Result :=
  match a with
  | .read => returnRead s (rd s)
  | .write d => .next (wr d s)

/-- A read-only register: a write is ignored without any diagnostic (R141). -/
def readOnlyAccess (rd : State → Half) (a : Access) (s : State) : Result :=
  registerAccess rd (fun _ s => s) a s

/-- A register of core `c` whose write touches that core only. -/
def coreAccess (c : CoreId) (rd : Core → Half) (wr : Half → Core → Core) (a : Access) (s : State) : Result :=
  registerAccess (fun s => rd (s.core c)) (fun d s => s.updCore c (wr d)) a s

/-- A register of voice `v` of core `c` whose write touches that voice only. -/
def voiceAccess (c : CoreId) (v : VoiceId) (rd : Voice → Half) (wr : Half → Voice → Voice) (a : Access)
    (s : State) : Result :=
  registerAccess (fun s => rd (s.voice c v)) (fun d s => s.updVoice c v (wr d)) a s

/-- The high half of a 20-bit register of core `c` (30_encoding R112). -/
def coreAddrHigh (c : CoreId) (rd : Core → RamAddr) (wr : RamAddr → Core → Core) (a : Access) (s : State) :
    Result :=
  coreAccess c (fun k => addrHigh (rd k)) (fun d k => wr (setAddrHigh (rd k) d) k) a s

/-- The low half of a 20-bit register of core `c` (30_encoding R112). -/
def coreAddrLow (c : CoreId) (rd : Core → RamAddr) (wr : RamAddr → Core → Core) (a : Access) (s : State) :
    Result :=
  coreAccess c (fun k => addrLow (rd k)) (fun d k => wr (setAddrLow (rd k) d) k) a s

/-- The low half of a 24-bit mask of core `c` (30_encoding R111). -/
def coreMaskLow (c : CoreId) (rd : Core → VoiceMask) (wr : VoiceMask → Core → Core) (a : Access) (s : State) :
    Result :=
  coreAccess c (fun k => maskLow (rd k)) (fun d k => wr (setMaskLow (rd k) d) k) a s

/-- The high half of a 24-bit mask of core `c` (30_encoding R111). -/
def coreMaskHigh (c : CoreId) (rd : Core → VoiceMask) (wr : VoiceMask → Core → Core) (a : Access) (s : State) :
    Result :=
  coreAccess c (fun k => maskHigh (rd k)) (fun d k => wr (setMaskHigh (rd k) d) k) a s

/-- The high half of a reverb offset register (40_register_access R172). -/
def offsetHigh (c : CoreId) (o : RvbOffset) (i : Side) (a : Access) (s : State) : Result :=
  coreAddrHigh c (fun k => k.off o i) (fun x k => k.setOff o i x) a s

/-- The low half of a reverb offset register (40_register_access R172). -/
def offsetLow (c : CoreId) (o : RvbOffset) (i : Side) (a : Access) (s : State) : Result :=
  coreAddrLow c (fun k => k.off o i) (fun x k => k.setOff o i x) a s

/-- A reverb coefficient: 16 bits of storage (40_register_access R180). -/
def coefAccess (c : CoreId) (n : RvbCoef) (a : Access) (s : State) : Result :=
  coreAccess c (fun k => k.coef n) (fun d k => k.setCoef n d) a s

/-- The host's write to a volume register (40_register_access R142): a fixed volume is loaded at once, doubled; a sweep keeps the level it finds. -/
def writeVolume (d : Half) (u : VolUnit) : VolUnit :=
  if volSweep.isSet d then { u with reg := d } else { reg := d, level := d <<< 1, frac := 0 }

end Sys2Proof.Machine
end

