-- ==== Sys2Proof/Machine/CoreRegs.lean ====
section
/-! DEFINITION. The core registers but for the reverb offsets (40_register_access sections 4 and 5). -/

namespace Sys2Proof.Machine

/-- `PMON_L` (R160): the pitch-modulation mask, low half. -/
def execPmonL (c : CoreId) (a : Access) (s : State) : Result :=
  coreMaskLow c (fun k => k.pmon) (fun m k => { k with pmon := m }) a s

/-- `PMON_H` (R160): the pitch-modulation mask, high half. -/
def execPmonH (c : CoreId) (a : Access) (s : State) : Result :=
  coreMaskHigh c (fun k => k.pmon) (fun m k => { k with pmon := m }) a s

/-- `NON_L` (R161): the noise mask, low half. -/
def execNonL (c : CoreId) (a : Access) (s : State) : Result :=
  coreMaskLow c (fun k => k.non) (fun m k => { k with non := m }) a s

/-- `NON_H` (R161): the noise mask, high half. -/
def execNonH (c : CoreId) (a : Access) (s : State) : Result :=
  coreMaskHigh c (fun k => k.non) (fun m k => { k with non := m }) a s

/-- `VMIXL_L` (R162): the voices routed to dry left, low half. -/
def execVmixlL (c : CoreId) (a : Access) (s : State) : Result :=
  coreMaskLow c (fun k => k.vmixl) (fun m k => { k with vmixl := m }) a s

/-- `VMIXL_H` (R162): the voices routed to dry left, high half. -/
def execVmixlH (c : CoreId) (a : Access) (s : State) : Result :=
  coreMaskHigh c (fun k => k.vmixl) (fun m k => { k with vmixl := m }) a s

/-- `VMIXEL_L` (R162): the voices routed to wet left, low half. -/
def execVmixelL (c : CoreId) (a : Access) (s : State) : Result :=
  coreMaskLow c (fun k => k.vmixel) (fun m k => { k with vmixel := m }) a s

/-- `VMIXEL_H` (R162): the voices routed to wet left, high half. -/
def execVmixelH (c : CoreId) (a : Access) (s : State) : Result :=
  coreMaskHigh c (fun k => k.vmixel) (fun m k => { k with vmixel := m }) a s

/-- `VMIXR_L` (R162): the voices routed to dry right, low half. -/
def execVmixrL (c : CoreId) (a : Access) (s : State) : Result :=
  coreMaskLow c (fun k => k.vmixr) (fun m k => { k with vmixr := m }) a s

/-- `VMIXR_H` (R162): the voices routed to dry right, high half. -/
def execVmixrH (c : CoreId) (a : Access) (s : State) : Result :=
  coreMaskHigh c (fun k => k.vmixr) (fun m k => { k with vmixr := m }) a s

/-- `VMIXER_L` (R162): the voices routed to wet right, low half. -/
def execVmixerL (c : CoreId) (a : Access) (s : State) : Result :=
  coreMaskLow c (fun k => k.vmixer) (fun m k => { k with vmixer := m }) a s

/-- `VMIXER_H` (R162): the voices routed to wet right, high half. -/
def execVmixerH (c : CoreId) (a : Access) (s : State) : Result :=
  coreMaskHigh c (fun k => k.vmixer) (fun m k => { k with vmixer := m }) a s

/-- `MMIX` (R164): storage. -/
def execMmix (c : CoreId) (a : Access) (s : State) : Result :=
  coreAccess c (fun k => k.mmix) (fun d k => { k with mmix := d }) a s

/-- The write of `ATTR`: with `IrqEnable` clear it acknowledges the core's interrupt (R166, 60_exceptions R445). -/
def writeAttr (c : CoreId) (d : Half) (s : State) : State :=
  let s := s.updCore c fun k => { k with attr := d }
  if attrIrqEnable.isSet d then s else { s with engine := acknowledgeIrq c s.engine }

/-- `ATTR` (R166). -/
def execAttr (c : CoreId) (a : Access) (s : State) : Result :=
  registerAccess (fun s => (s.core c).attr) (writeAttr c) a s

/-- `IRQA_H` (R167): the interrupt address, high half. -/
def execIrqaH (c : CoreId) (a : Access) (s : State) : Result :=
  coreAddrHigh c (fun k => k.irqa) (fun x k => { k with irqa := x }) a s

/-- `IRQA_L` (R167): the interrupt address, low half. -/
def execIrqaL (c : CoreId) (a : Access) (s : State) : Result :=
  coreAddrLow c (fun k => k.irqa) (fun x k => { k with irqa := x }) a s

/-- `KON_L` (R168): a write queues key-ons, the low half. -/
def execKonL (c : CoreId) (a : Access) (s : State) : Result :=
  coreAccess c (fun k => maskLow k.kon) (fun d k => { k with kon := queueMaskLow k.kon d }) a s

/-- `KON_H` (R168): a write queues key-ons, the high half. -/
def execKonH (c : CoreId) (a : Access) (s : State) : Result :=
  coreAccess c (fun k => maskHigh k.kon) (fun d k => { k with kon := queueMaskHigh k.kon d }) a s

/-- `KOFF_L` (R169): a write queues key-offs, the low half. -/
def execKoffL (c : CoreId) (a : Access) (s : State) : Result :=
  coreAccess c (fun k => maskLow k.koff) (fun d k => { k with koff := queueMaskLow k.koff d }) a s

/-- `KOFF_H` (R169): a write queues key-offs, the high half. -/
def execKoffH (c : CoreId) (a : Access) (s : State) : Result :=
  coreAccess c (fun k => maskHigh k.koff) (fun d k => { k with koff := queueMaskHigh k.koff d }) a s

/-- `TSA_H` (R170): a write of the high half reloads the RAM cursor of the DMA engine. -/
def execTsaH (c : CoreId) (a : Access) (s : State) : Result :=
  coreAccess c (fun k => addrHigh k.tsa)
    (fun d k => { k with tsa := setAddrHigh k.tsa d, taddr := setAddrHigh k.tsa d }) a s

/-- `TSA_L` (R170): a write of the low half reloads the RAM cursor of the DMA engine. -/
def execTsaL (c : CoreId) (a : Access) (s : State) : Result :=
  coreAccess c (fun k => addrLow k.tsa)
    (fun d k => { k with tsa := setAddrLow k.tsa d, taddr := setAddrLow k.tsa d }) a s

/-- The Auto-DMA counters after a write of `ADMAS`: clearing the gate drops the sequence (R171). -/
def admaAfterWrite (c : CoreId) (d : Half) (m : Adma) : Adma :=
  if (admasGate c).isSet d then m else { m with left := 0, pending := false }

/-- `ADMAS` (R171). -/
def execAdmas (c : CoreId) (a : Access) (s : State) : Result :=
  coreAccess c (fun k => k.admas)
    (fun d k => { k with admas := d, adma := admaAfterWrite c d k.adma }) a s

/-- `ESA_H` (R172): the start of the reverb work area, high half. -/
def execEsaH (c : CoreId) (a : Access) (s : State) : Result :=
  coreAddrHigh c (fun k => k.esa) (fun x k => { k with esa := x }) a s

/-- `ESA_L` (R172): the start of the reverb work area, low half. -/
def execEsaL (c : CoreId) (a : Access) (s : State) : Result :=
  coreAddrLow c (fun k => k.esa) (fun x k => { k with esa := x }) a s

/-- `EEA_H` (R172): the end of the reverb work area, high half. -/
def execEeaH (c : CoreId) (a : Access) (s : State) : Result :=
  coreAddrHigh c (fun k => k.eea) (fun x k => { k with eea := x }) a s

/-- `EEA_L` (R172): the end of the reverb work area, low half. -/
def execEeaL (c : CoreId) (a : Access) (s : State) : Result :=
  coreAddrLow c (fun k => k.eea) (fun x k => { k with eea := x }) a s

/-- `ENDX_L` (R173): the loop-end flags, low half; any write clears all 24. -/
def execEndxL (c : CoreId) (a : Access) (s : State) : Result :=
  coreAccess c (fun k => maskLow k.endx) (fun _ k => k.clearAllEndx) a s

/-- `ENDX_H` (R173): the loop-end flags, high half; any write clears all 24. -/
def execEndxH (c : CoreId) (a : Access) (s : State) : Result :=
  coreAccess c (fun k => maskHigh k.endx) (fun _ k => k.clearAllEndx) a s

/-- `STATX` (R174): the state of the DMA engine, read-only. -/
def execStatx (c : CoreId) (a : Access) (s : State) : Result :=
  readOnlyAccess (fun s => statxRead (s.core c).dma) a s

end Sys2Proof.Machine
end

