-- ==== Sys2Proof/Machine/Envelope.lean ====
section
/-! DEFINITION. The envelope generator and the volume-sweep unit (spec/41_envelope.md). -/

namespace Sys2Proof.Machine

/-- The parameters of a rate: `(shift, stepBase, exp, dec)` (R221). -/
structure Rate where
  shift : Nat
  stepBase : Int
  exp : Bool
  dec : Bool
deriving DecidableEq, Repr

/-- The step base of a rate with a step field and a direction (R221, R240). -/
def stepBaseOf (dec : Bool) (step : Nat) : Int := if dec then -8 + step else 7 - step

/-- The attack rate (R221). -/
def attackRate (adsr1 : Half) : Rate where
  shift := attackShift.of adsr1
  stepBase := stepBaseOf false (attackStep.of adsr1)
  exp := attackExp.isSet adsr1
  dec := false

/-- The decay rate (R221). -/
def decayRate (adsr1 : Half) : Rate where
  shift := decayShift.of adsr1
  stepBase := -8
  exp := true
  dec := true

/-- The sustain rate (R221). -/
def sustainRate (adsr2 : Half) : Rate where
  shift := sustainShift.of adsr2
  stepBase := stepBaseOf (sustainDec.isSet adsr2) (sustainStep.of adsr2)
  exp := sustainExp.isSet adsr2
  dec := sustainDec.isSet adsr2

/-- The release rate (R221). -/
def releaseRate (adsr2 : Half) : Rate where
  shift := releaseShift.of adsr2
  stepBase := -8
  exp := releaseExp.isSet adsr2
  dec := true

/-- The sweep rate of a volume register (R240). -/
def sweepRate (reg : Half) : Rate where
  shift := volSwShift.of reg
  stepBase := stepBaseOf (volSwDec.isSet reg) (volSwStep.of reg)
  exp := volSwExp.isSet reg
  dec := volSwDec.isSet reg

/-- The effective shift: a rising exponential rate above 0x6000 is biased by two shift steps (R224 (a)). -/
def Rate.effectiveShift (r : Rate) (level : Int) : Nat :=
  if r.exp && !r.dec && decide (0x6000 < level) then r.shift + 2 else r.shift

/-- The step `s` of R223, scaled by the level where the rate is exponential and falling (R224 (b)). -/
def Rate.stepSize (r : Rate) (level : Int) : Int :=
  let s := r.stepBase * 2 ^ (11 - r.effectiveShift level)
  if r.exp && r.dec then asr (s * level) 15 else s

/-- `EnvStep` on the fixed-point number `level · 2^F + frac` (R223). -/
def envStepFixed (fracBits : Nat) (r : Rate) (level : Int) (frac : Nat) : Int :=
  let cs := r.effectiveShift level - 11
  let fp := level * 2 ^ fracBits + frac + r.stepSize level * 2 ^ (fracBits - cs)
  clamp fp 0 (0x7FFF * 2 ^ fracBits)

/-- `EnvStep` (R223): the new level and fraction. -/
def envStep (fracBits : Nat) (r : Rate) (level : Half) (frac : Nat) : Half × Nat :=
  let fp := envStepFixed fracBits r level.toInt frac
  (BitVec.ofInt 16 (fp / 2 ^ fracBits), (fp % 2 ^ fracBits).toNat)

/-- An envelope moved by one step at a rate. -/
def Envelope.move (e : Envelope) (fracBits : Nat) (r : Rate) : Envelope :=
  let next := envStep fracBits r e.level e.frac
  { e with level := next.1, frac := next.2 }

/-- `EnvTick` (R226): the envelope after the tick, and whether the voice is still active. A tick advances the phase or moves the level, never both. -/
def envTick (fracBits : Nat) (adsr1 adsr2 : Half) (e : Envelope) : Envelope × Bool :=
  match e.phase with
  | .stopped => (e, false)
  | .attack =>
    if 0x7FFF ≤ e.level.toInt then ({ e with phase := .decay }, true)
    else (e.move fracBits (attackRate adsr1), true)
  | .decay =>
    if asr e.level.toInt 11 ≤ sustainLevel.of adsr1 then ({ e with phase := .sustain }, true)
    else (e.move fracBits (decayRate adsr1), true)
  | .sustain => (e.move fracBits (sustainRate adsr2), true)
  | .release =>
    if e.level = 0 then ({ e with phase := .stopped, frac := 0 }, false)
    else (e.move fracBits (releaseRate adsr2), true)

/-- `Attack` (R231): from level 0. -/
def Envelope.attack (_ : Envelope) : Envelope := { phase := .attack, level := 0, frac := 0 }

/-- `Release` (R232): level and fraction stay. -/
def Envelope.release (e : Envelope) : Envelope := { e with phase := .release }

/-- `Stop` (R233). -/
def Envelope.stop (_ : Envelope) : Envelope := { phase := .stopped, level := 0, frac := 0 }

/-- `VolTick` (R240): a fixed volume stays, a sweep takes one step. A sweep from a negative level adds its step before the clamp, as the pseudocode of R240 and R223 does; the prose of R240 has such a unit jump to 0: DESIGN CHOICE, log 23. -/
def volTick (fracBits : Nat) (u : VolUnit) : VolUnit :=
  if volSweep.isSet u.reg then
    let next := envStep fracBits (sweepRate u.reg) u.level u.frac
    { u with level := next.1, frac := next.2 }
  else u

/-- Step 6 of the tick for one voice: envelope and both volume sweeps (45_mixer R370). -/
def envelopeStep (cfg : Config) (w : Voice) : Voice :=
  { w with
    env := (envTick cfg.envFracBits.val w.adsr1 w.adsr2 w.env).1
    vol := ⟨volTick cfg.envFracBits.val w.vol.left, volTick cfg.envFracBits.val w.vol.right⟩ }

end Sys2Proof.Machine
end

