-- ==== Sys2Proof/Machine/Adpcm.lean ====
section
/-! DEFINITION. The ADPCM decoder, loop control, key-on and key-off (spec/42_adpcm.md). -/

namespace Sys2Proof.Machine

/-! ## One data word -/

/-- The shift a header selects: 13..15 act as 12 (R265). -/
def adpcmShift (hdr : Half) : Nat := min (hdrShift.of hdr) 12

/-- The filter a header selects: 5..7 act as 4 (R265). -/
def adpcmFilter (hdr : Half) : Fin 5 := Fin.ofNat 5 (min (hdrFilter.of hdr) 4)

/-- The coefficient pair a header selects (R264). -/
def adpcmCoefs (cfg : Config) (hdr : Half) : Int × Int := cfg.adpcmCoef[adpcmFilter hdr]

/-- One sample from one nibble and the history (R264). -/
def adpcmSample (cfg : Config) (hdr : Half) (hist1 hist2 : Half) (nib : BitVec 4) : Half :=
  let c := adpcmCoefs cfg hdr
  clamp16 (asr (nib ++ 0#12).toInt (adpcmShift hdr) + asr (c.1 * hist1.toInt + c.2 * hist2.toInt) 6)

/-- A sample appended to the voice's queue and moved into the history (R264). -/
def Voice.takeSample (w : Voice) (x : Half) : Voice :=
  { w with buf := w.buf ++ [x], hist2 := w.hist1, hist1 := x }

/-- One nibble decoded (R264). -/
def decodeNibble (cfg : Config) (w : Voice) (nib : BitVec 4) : Voice :=
  w.takeSample (adpcmSample cfg w.hdr w.hist1 w.hist2 nib)

/-- `DecodeWord`: the four samples of a data word, low nibble first (R264). -/
def decodeWord (cfg : Config) (d : Half) (w : Voice) : Voice := (dataNibbles d).foldl (decodeNibble cfg) w

/-! ## One decode step (R261) -/

/-- Whether a cursor is at a block boundary, `NAX[2:0] = 0` (R262). -/
def atBlockStart (a : RamAddr) : Bool := a.extractLsb' 0 3 == 0#3

/-- The cursor moved on by one word (R267). -/
def Voice.advanceNax (w : Voice) : Voice := { w with nax := wrapAdd w.nax 1 }

/-- A header word latched, with the loop-start capture (R261, R268). -/
def Voice.latchHeader (w : Voice) (h : Half) : Voice :=
  { w with hdr := h, lsa := if hdrLoopStart.isSet h && !w.customLoop then w.nax else w.lsa }

/-- The header read at a block boundary (R262). -/
def readHeader (m : Memory) (w : Voice) : Voice :=
  if atBlockStart w.nax then (w.latchHeader (ramRead m w.nax)).advanceNax else w

/-- Four zeros pushed in place of a decoded word (R266). -/
def Voice.pushZeros (w : Voice) : Voice := { w with buf := w.buf ++ [0, 0, 0, 0] }

/-- The data word of a decode step: a Stopped voice does not read it (R266). -/
def readData (cfg : Config) (m : Memory) (w : Voice) : Voice :=
  if w.env.phase = .stopped then w.pushZeros else decodeWord cfg (ramRead m w.nax) w

/-- The header and the data word of a decode step (R261). -/
def decodeBlockWord (cfg : Config) (m : Memory) (w : Voice) : Voice :=
  (readData cfg m (readHeader m w)).advanceNax

/-- Whether a voice has just consumed the last word of a block with `LoopEnd` (R261). -/
def Voice.atLoopEnd (w : Voice) : Bool := atBlockStart w.nax && hdrLoopEnd.isSet w.hdr

/-- What `LoopEnd` does to the voice; the stop is suppressed for a noise voice (R270). -/
def Voice.loopEnd (noiseOn : Bool) (w : Voice) : Voice :=
  { w with
    nax := w.lsa
    env := if !hdrLoopRepeat.isSet w.hdr && !noiseOn then w.env.stop else w.env }

/-- `LoopEnd(c, v)` (R270). -/
def loopEnd (v : VoiceId) (k : Core) : Core :=
  (k.updVoice v (Voice.loopEnd (voiceBit k.non v))).setEndx v

/-- `DecodeStep(c, v)` (R261); with 16 samples buffered it does nothing (R263). -/
def decodeStep (cfg : Config) (m : Memory) (v : VoiceId) (k : Core) : Core :=
  if 16 ≤ (k.voice v).buf.length then k
  else
    let k := k.updVoice v (decodeBlockWord cfg m)
    if (k.voice v).atLoopEnd then loopEnd v k else k

/-! ## Key events -/

/-- What key-on does to the voice (R275). -/
def Voice.keyOn (w : Voice) : Voice :=
  { w with
    nax := w.ssa
    hist1 := 0
    hist2 := 0
    buf := []
    counter := 0
    customLoop := false
    env := w.env.attack }

/-- `KeyOn(c, v)` (R275). -/
def keyOn (v : VoiceId) (k : Core) : Core := (k.updVoice v Voice.keyOn).clearEndx v

/-- `KeyOff(c, v)` (R276). -/
def keyOff (v : VoiceId) (k : Core) : Core := k.updVoice v fun w => { w with env := w.env.release }

/-- Step 2 of the tick: the pending key-ons, then the pending key-offs, then both masks cleared (R277). A voice with both ends released at level 0; which tick stops it is the model's choice (log 22). -/
def processKeys (k : Core) : Core :=
  let k := forVoices (fun v k => if voiceBit k.kon v then keyOn v k else k) k
  let k := forVoices (fun v k => if voiceBit k.koff v then keyOff v k else k) k
  { k with kon := 0, koff := 0 }

end Sys2Proof.Machine
end

