-- ==== Sys2Proof/Machine/Dma.lean ====
section
/-! DEFINITION. The DMA and Auto-DMA engine (spec/46_dma.md). `missing` supplies the words of a host stream that the host did not supply (log 6). -/

namespace Sys2Proof.Machine

/-- Words a burst moves at most (00_scope R6). -/
def burstWords : Nat := 32

/-- The length of the next burst (R407, R411). -/
def Dma.burstLen (d : Dma) : Nat := min burstWords d.size

/-- Word `i` of the host stream (R401). -/
def Dma.hostWord (missing : Nat → Half) (d : Dma) (i : Nat) : Half := d.stream.getD i (missing i)

/-! ## Ordinary bursts -/

/-- The move of one word between the host stream and the RAM cursor's address (R407). -/
def moveWord (missing : Nat → Half) (c : CoreId) (e : Engine) : Engine :=
  let k := e.core c
  match k.dma.dir with
  | .write => e.store k.taddr (k.dma.hostWord missing k.dma.hostPos)
  | .read => e.emit (.dmaWord c (ramRead e.ram k.taddr))

/-- Both cursors of an ordinary transfer moved on by one word (R407, R408). -/
def Core.advanceCursors (k : Core) : Core :=
  { k with taddr := wrapAdd k.taddr 1, dma := { k.dma with hostPos := k.dma.hostPos + 1 } }

/-- One word of an ordinary burst: the move, the address test, and both cursors (R407, R408). -/
def burstWord (cfg : Config) (missing : Nat → Half) (c : CoreId) (e : Engine) : Engine :=
  (irqTest cfg c (e.core c).taddr .dma (moveWord missing c e)).updCore c Core.advanceCursors

/-- The words of an ordinary burst in ascending order (R407). -/
def burstLoop (cfg : Config) (missing : Nat → Half) (c : CoreId) : Nat → Engine → Engine
  | 0, e => e
  | n + 1, e => burstLoop cfg missing c n (burstWord cfg missing c e)

/-- The words moved taken off the remaining length (R407). -/
def Dma.shrink (n : Nat) (d : Dma) : Dma := { d with size := d.size - n }

/-- `Burst(c)` (R407). -/
def burst (cfg : Config) (missing : Nat → Half) (c : CoreId) (e : Engine) : Engine :=
  let n := (e.core c).dma.burstLen
  (burstLoop cfg missing c n e).updCore c fun k => k.updDma (Dma.shrink n)

/-! ## Auto-DMA bursts -/

/-- `ChunkBase(c, idx, h)` (R412). -/
def chunkBase (c : CoreId) (idx : Nat) (half : Bool) : RamAddr :=
  BitVec.ofNat 20 (0x2000 + c.num * 0x400 + idx / 8 * 0x200 + half.toNat * 0x100 + idx % 8 * 32)

/-- The half of the input areas the mixer is not reading: `1 - OutPos[8]` (R402, R413). -/
def Core.idleHalf (k : Core) : Bool := !k.outPos.getLsbD 8

/-- A sequence of 16 bursts granted, into the half the mixer is not reading (R411, R413, R414). -/
def Core.grantSequence (k : Core) : Core := k.updAdma fun m => { m with left := 16, half := k.idleHalf }

/-- Words `base + i` up to `base + n - 1` of an Auto-DMA burst, stored in ascending order with their address tests (R411). -/
def admaLoop (cfg : Config) (missing : Nat → Half) (c : CoreId) (base : RamAddr) : Nat → Nat → Engine → Engine
  | 0, _, e => e
  | n + 1, i, e =>
    let d := (e.core c).dma
    let a := wrapAdd base i
    let e := e.store a (d.hostWord missing (d.hostPos + i))
    admaLoop cfg missing c base n (i + 1) (irqTest cfg c a .dma e)

/-- A sequence that has ended with a refill remembered: the refill is granted if words remain (R411). -/
def Core.grantPending (k : Core) : Core :=
  if k.adma.left = 0 ∧ k.adma.pending = true then
    let k := k.updAdma fun m => { m with pending := false }
    if 0 < k.dma.size then k.grantSequence else k
  else k

/-- The counters after an Auto-DMA burst of `n` words (R411). -/
def Core.endAdmaBurst (n : Nat) (k : Core) : Core :=
  let k := k.updDma fun d => { d with hostPos := d.hostPos + n, size := d.size - n }
  (k.updAdma fun m => { m with left := m.left - 1 }).grantPending

/-- `AdmaBurst(c)` (R411). -/
def admaBurst (cfg : Config) (missing : Nat → Half) (c : CoreId) (e : Engine) : Engine :=
  let k := e.core c
  let base := chunkBase c (16 - k.adma.left.val) k.adma.half
  let n := k.dma.burstLen
  (admaLoop cfg missing c base n 0 e).updCore c (Core.endAdmaBurst n)

/-- `AdmaTrigger(c)` (R413). DESIGN CHOICE (log 24): where a sequence is draining and no word is left to send, the prose of R413 says that the trigger is not remembered and its pseudocode remembers it; the model follows the pseudocode. -/
def admaTrigger (c : CoreId) (k : Core) : Core :=
  if k.admaActive c then
    if k.adma.left ≠ 0 then k.updAdma fun m => { m with pending := true }
    else if 0 < k.dma.size ∧ k.dma.dir = .write then k.grantSequence
    else k
  else k

/-! ## RUNDMA and the starts -/

/-- The countdown after a burst (R405, R406). -/
def Core.setCount (k : Core) (n : Int) : Core := k.updDma fun d => { d with count := n }

/-- The end of a burst: the countdown armed again, and completion signalled (R405, R409). -/
def finishBurst (cfg : Config) (c : CoreId) (e : Engine) : Engine :=
  let e := e.updCore c fun k => k.setCount cfg.dmaBurstCycles.val
  if (e.core c).dma.size = 0 then raiseDmaDone c e else e

/-- A burst that is due, of the kind the transfer asks for; an Auto-DMA transfer without a sequence waits (R405). -/
def dueBurst (cfg : Config) (missing : Nat → Half) (c : CoreId) (e : Engine) : Engine :=
  let k := e.core c
  if k.dma.dir = .write ∧ k.admaActive c = true then
    if k.adma.left = 0 then e.updCore c fun k => k.setCount 0
    else finishBurst cfg c (admaBurst cfg missing c e)
  else finishBurst cfg c (burst cfg missing c e)

/-- `RUNDMA c, cyc` (R405). -/
def runDma (cfg : Config) (missing : Nat → Half) (c : CoreId) (cyc : Nat) (e : Engine) : Engine :=
  if (e.core c).dma.size = 0 then e
  else
    let e := e.updCore c fun k => k.setCount (k.dma.count - cyc)
    if 0 < (e.core c).dma.count then e else dueBurst cfg missing c e

/-- A DMA engine started: direction, length, host position and countdown, with the host's stream (R402, R403). -/
def Dma.start (cfg : Config) (dir : DmaDir) (n : Nat) (stream : List Half) : Dma where
  dir := dir
  size := n
  count := cfg.dmaStartCycles.val
  hostPos := 0
  stream := stream

/-- The first sequence a write start grants itself (R402, R414). -/
def grantAtStart (c : CoreId) (n : Nat) (k : Core) : Core :=
  if k.admaActive c = true ∧ k.adma.left = 0 ∧ 0 < n then
    k.grantSequence.updAdma fun m => { m with pending := false }
  else k

/-- `DMAWR c, n` with its stream (R402). -/
def startWrite (cfg : Config) (missing : Nat → Half) (c : CoreId) (n : Nat) (stream : List Half) (e : Engine) :
    Engine :=
  runDma cfg missing c 0
    (e.updCore c fun k => grantAtStart c n (k.updDma fun _ => Dma.start cfg .write n stream))

/-- `DMARD c, n` (R403). -/
def startRead (cfg : Config) (missing : Nat → Half) (c : CoreId) (n : Nat) (e : Engine) : Engine :=
  runDma cfg missing c 0 (e.updCore c fun k => k.updDma fun _ => Dma.start cfg .read n [])

end Sys2Proof.Machine
end

