-- ==== Sys2Proof/Machine/Interp.lean ====
section
/-! DEFINITION. The interpolator, the pitch counter and the noise generator (spec/43_interp_pitch_noise.md). -/

namespace Sys2Proof.Machine

/-! ## Interpolation -/

/-- The row of the table a counter selects: its upper eight bits (R290). -/
def gaussIndex (counter : BitVec 12) : Fin 256 := Fin.ofNat 256 (counter.toNat / 16)

/-- Sample `i` of the window, the front of the queue (R290); the queue holds four samples whenever this is read (R263, log 11). -/
def windowSample (w : Voice) (i : Nat) : Int := (w.buf.getD i 0).toInt

/-- `Interpolate(c, v)` (R290). -/
def interpolate (cfg : Config) (w : Voice) : Half :=
  let row := cfg.gauss.rows[gaussIndex w.counter]
  let acc := windowSample w 0 * row[0].toInt + windowSample w 1 * row[1].toInt +
    windowSample w 2 * row[2].toInt + windowSample w 3 * row[3].toInt
  clamp16 (asr acc 15)

/-! ## Pitch counter -/

/-- `Modulate`: the step scaled by the previous voice's latched output (R296). -/
def modulate (prevOut step : Half) : Half :=
  BitVec.ofInt 16 (asr (step.toInt * (prevOut.toInt + 0x8000)) 15)

/-- The voice before voice `v`, which only `v > 0` has. -/
def prevVoice (v : VoiceId) : VoiceId := Fin.ofNat 24 (v.val - 1)

/-- The step of voice `v`'s counter in this tick (R295, R296, R297). -/
def pitchStep (v : VoiceId) (k : Core) : Nat :=
  let step := (k.voice v).pitch
  let step := if voiceBit k.pmon v && decide (0 < v.val) then modulate (k.voice (prevVoice v)).out step else step
  min step.toNat 0x3FFF

/-- A counter advanced by a step: every 0x1000 crossed consumes one buffered sample (R295). -/
def Voice.advanceCounter (step : Nat) (w : Voice) : Voice :=
  let sum := w.counter.toNat + step
  { w with counter := BitVec.ofNat 12 sum, buf := w.buf.drop (sum / 0x1000) }

/-- `AdvanceCounter(c, v)` (R295). -/
def advanceCounter (v : VoiceId) (k : Core) : Core :=
  k.updVoice v (Voice.advanceCounter (pitchStep v k))

/-! ## Noise -/

/-- The parity bit the generator shifts in (R302). -/
def noiseParity (level : Half) : Bool :=
  Bool.xor (Bool.xor (Bool.xor (Bool.xor (level.getLsbD 15) (level.getLsbD 12)) (level.getLsbD 11))
    (level.getLsbD 10)) true

/-- The shift register after one shift (R302). -/
def noiseShift (level : Half) : Half := level.extractLsb' 0 15 ++ BitVec.ofBool (noiseParity level)

/-- `nstep` of a noise clock (R301). -/
def noiseStep (clock : Nat) : Nat := clock % 4 + 4

/-- The reload of the timer, `0x20000 >> nshift` (R301, R302). -/
def noiseReload (clock : Nat) : Nat := 0x20000 / 2 ^ (clock / 4)

/-- One conditional reload of the timer (R302). -/
def noiseRewind (clock : Nat) (timer : Int) : Int := if timer < 0 then timer + noiseReload clock else timer

/-- `NoiseTick` with a noise clock (R302). -/
def noiseTick (clock : Nat) (n : Noise) : Noise :=
  let timer := n.timer - noiseStep clock
  { level := if timer < 0 then noiseShift n.level else n.level
    timer := noiseRewind clock (noiseRewind clock timer) }

/-- `NoiseTick(c)`: the clock is read live from `ATTR` (R301). -/
def Core.noiseTick (k : Core) : Core :=
  { k with noise := Sys2Proof.Machine.noiseTick (attrNoiseClock.of k.attr) k.noise }

end Sys2Proof.Machine
end

