-- ==== Sys2Proof/Machine/Reverb.lean ====
section
/-! DEFINITION. The reverb engine (spec/44_reverb.md). -/

namespace Sys2Proof.Machine

/-! ## FIR stages -/

/-- A value pushed onto a history: the newest first, the oldest dropped (R322). -/
def pushHistory (h : Vector Half 39) (x : Half) : Vector Half 39 :=
  ⟨(x :: h.toList.take 38).toArray, by simp⟩

/-- `Fir(h)` (R322). -/
def fir (cfg : Config) (h : Vector Half 39) : Int :=
  (List.zipWith (fun t x => t.toInt * x.toInt) cfg.firTaps h.toList).sum

/-! ## Addressing -/

/-- Whether the work area holds a word: `EEA > ESA` (R327). -/
def Core.reverbArea (k : Core) : Bool := decide (k.esa.toNat < k.eea.toNat)

/-- `Offset(c, x)` (R326); it is used only where `reverbArea` holds. -/
def rvbOffset (k : Core) (x : Int) : RamAddr :=
  BitVec.ofInt 20 (k.esa.toNat + (k.rvb.pos.toNat + x) % (k.eea.toNat - k.esa.toNat : Int))

/-- `RD(c, x)` (R328). -/
def rvbRead (cfg : Config) (c : CoreId) (x : Int) (e : Engine) : Engine × Half :=
  let a := rvbOffset (e.core c) x
  (irqTest cfg c a .reverb e, ramRead e.ram a)

/-- `WR(c, x, val)`: the address is tested also where the write is dropped (R328, R331). -/
def rvbWrite (cfg : Config) (c : CoreId) (x : Int) (val : Half) (e : Engine) : Engine :=
  let a := rvbOffset (e.core c) x
  let e := irqTest cfg c a .reverb e
  if (e.core c).effectEnabled then e.store a val else e

/-! ## The filter network (R330) -/

/-- A register of the reverb as the integer that enters an offset. -/
def Core.offInt (k : Core) (o : RvbOffset) (i : Side) : Int := (k.off o i).toNat

/-- A reflection stage from the tap `src` into the tap `dst` (R332, R333). -/
def rvbReflect (cfg : Config) (c : CoreId) (dst src : Int) (lin : Half) (e : Engine) : Engine :=
  let k := e.core c
  let r1 := rvbRead cfg c (dst - 1) e
  let r2 := rvbRead cfg c src r1.1
  let a := satAdd lin (satMul r2.2 (k.coef .vWALL))
  let a := satAdd (satMul (satSub a r1.2) (k.coef .vIIR)) r1.2
  rvbWrite cfg c dst a r2.1

/-- One comb tap added to the sum (R334). -/
def rvbComb (cfg : Config) (c : CoreId) (o : RvbOffset) (n : RvbCoef) (ph : Side) (acc : Engine × Half) :
    Engine × Half :=
  let k := acc.1.core c
  let r := rvbRead cfg c (k.offInt o ph) acc.1
  (r.1, satAdd acc.2 (satMul (k.coef n) r.2))

/-- The first comb tap, which starts the sum (R330). -/
def rvbFirstComb (cfg : Config) (c : CoreId) (o : RvbOffset) (n : RvbCoef) (ph : Side) (e : Engine) :
    Engine × Half :=
  let k := e.core c
  let r := rvbRead cfg c (k.offInt o ph) e
  (r.1, satMul (k.coef n) r.2)

/-- An all-pass stage with tap `tap`, distance `dist` and coefficient `n` (R335). -/
def rvbAllPass (cfg : Config) (c : CoreId) (tap dist : Int) (n : RvbCoef) (acc : Engine × Half) :
    Engine × Half :=
  let v := (acc.1.core c).coef n
  let r := rvbRead cfg c (tap - dist) acc.1
  let o := satSub acc.2 (satMul v r.2)
  (rvbWrite cfg c tap o r.1, satAdd (satMul o v) r.2)

/-- `RvbCore(c, ph, x)`: 14 accesses in the order written (R330). -/
def rvbCore (cfg : Config) (c : CoreId) (ph : Side) (x : Half) (e : Engine) : Engine × Half :=
  let k := e.core c
  let lin := satMul x (k.coef (vIN ph))
  let e := rvbReflect cfg c (k.offInt .mSAME ph) (k.offInt .dSAME ph) lin e
  let e := rvbReflect cfg c (k.offInt .mDIFF ph) (k.offInt .dDIFF ph.other) lin e
  let r := rvbFirstComb cfg c .mCOMB1 .vCOMB1 ph e
  let r := rvbComb cfg c .mCOMB2 .vCOMB2 ph r
  let r := rvbComb cfg c .mCOMB3 .vCOMB3 ph r
  let r := rvbComb cfg c .mCOMB4 .vCOMB4 ph r
  let r := rvbAllPass cfg c (k.offInt .mAPF1 ph) (k.offInt .dAPF .left) .vAPF1 r
  rvbAllPass cfg c (k.offInt .mAPF2 ph) (k.offInt .dAPF .right) .vAPF2 r

/-! ## Top level (R321) -/

/-- Both channels of the wet input pushed (R321, R324). -/
def RvbWork.pushInput (w : RvbWork) (inp : Frame) : RvbWork :=
  { w with down := ⟨pushHistory w.down.left inp.left, pushHistory w.down.right inp.right⟩ }

/-- The processed value pushed into the phase's up-history and a zero into the other (R321, R325). -/
def RvbWork.pushOutput (w : RvbWork) (y : Half) : RvbWork :=
  let up := (w.up.set w.phase (pushHistory (w.up.get w.phase) y))
  { w with up := up.set w.phase.other (pushHistory (up.get w.phase.other) 0) }

/-- The cursor after a tick: it moves on after each right-phase tick, inside the work area (R338). -/
def Core.nextRvbPos (k : Core) : RamAddr :=
  if k.rvb.phase = .right ∧ k.reverbArea then
    BitVec.ofNat 20 ((k.rvb.pos.toNat + 1) % (k.eea.toNat - k.esa.toNat))
  else k.rvb.pos

/-- The cursor and the phase moved on (R321, R338). -/
def Core.advanceReverb (k : Core) : Core :=
  k.updRvb fun w => { w with pos := k.nextRvbPos, phase := w.phase.other }

/-- The down-sampled input of the phase (R321, R324). -/
def rvbInput (cfg : Config) (w : RvbWork) : Half := clamp16 (asr (fir cfg (w.down.get w.phase)) cfg.rvbDownShift)

/-- The up-sampled output (R321, R325). -/
def rvbOutput (cfg : Config) (w : RvbWork) : Frame :=
  ⟨clamp16 (asr (fir cfg w.up.left) cfg.rvbUpShift), clamp16 (asr (fir cfg w.up.right) cfg.rvbUpShift)⟩

/-- The processed value: the filter network's, or 0 where the work area is degenerate (R321, R327). -/
def rvbValue (cfg : Config) (c : CoreId) (e : Engine) : Engine × Half :=
  if (e.core c).reverbArea then rvbCore cfg c (e.core c).rvb.phase (rvbInput cfg (e.core c).rvb) e else (e, 0)

/-- `Reverb(c, in)` (R321). -/
def reverb (cfg : Config) (c : CoreId) (inp : Frame) (e : Engine) : Engine × Frame :=
  let r := rvbValue cfg c (e.updCore c fun k => k.updRvb fun w => w.pushInput inp)
  let e := r.1.updCore c fun k => k.updRvb fun w => w.pushOutput r.2
  (e.updCore c Core.advanceReverb, rvbOutput cfg (e.core c).rvb)

end Sys2Proof.Machine
end

