-- ==== Sys2Proof/Machine/Mixer.lean ====
section
/-! DEFINITION. The clock advance, the sample tick and the core mixer (spec/45_mixer.md), with the RAM map of 20_memory R76. -/

namespace Sys2Proof.Machine

/-! ## RAM map (20_memory R76) -/

/-- The offset of a capture area from its core's base (20_memory R76). -/
def captureOffset : CaptureArea → Nat
  | .sinL => 0x000
  | .sinR => 0x200
  | .voice1 => 0x400
  | .voice3 => 0x600
  | .dryL => 0x800
  | .dryR => 0xA00
  | .wetL => 0xC00
  | .wetR => 0xE00

/-- The word of a capture area at a position (20_memory R76). -/
def captureAddr (c : CoreId) (area : CaptureArea) (p : BitVec 9) : RamAddr :=
  BitVec.ofNat 20 (c.num * 0x1000 + captureOffset area + p.toNat)

/-- The word of the input area `IN_L` or `IN_R` at a position (20_memory R76). -/
def inputAddr (c : CoreId) (ch : Side) (p : BitVec 9) : RamAddr :=
  BitVec.ofNat 20 (0x2000 + c.num * 0x400 + ch.num * 0x200 + p.toNat)

/-- `CapWrite`: an area outside `CAPTURE_SET` is neither tested nor written (R365). -/
def capWrite (cfg : Config) (c : CoreId) (area : CaptureArea) (x : Half) (e : Engine) : Engine :=
  if cfg.captureSet.has area then
    let a := captureAddr c area (e.core c).outPos
    (irqTest cfg c a .capture e).store a x
  else e

/-! ## Steps 1 to 8 -/

/-- Step 1: the sound-in captured, before its volume (R365). -/
def captureSin (cfg : Config) (c : CoreId) (sin : Frame) (e : Engine) : Engine :=
  capWrite cfg c .sinR sin.right (capWrite cfg c .sinL sin.left e)

/-- Step 3: every voice's cursor tested, in ascending order (R367). -/
def testVoices (cfg : Config) (c : CoreId) (e : Engine) : Engine :=
  voiceIds.foldl (fun e v => irqTest cfg c ((e.core c).voice v).nax .voice e) e

/-- Step 4: one decode step for every voice (R368). -/
def decodeVoices (cfg : Config) (c : CoreId) (e : Engine) : Engine :=
  e.updCore c (forVoices (decodeStep cfg e.ram))

/-- Step 5: the raw samples of the tick (R369). -/
def rawSamples (cfg : Config) (k : Core) : List Half := voiceIds.map fun v => interpolate cfg (k.voice v)

/-- Step 6: envelopes and voice volume sweeps (R370). -/
def envelopeVoices (cfg : Config) (k : Core) : Core := forVoices (fun v k => k.updVoice v (envelopeStep cfg)) k

/-- Step 7: the pitch counters (R386). -/
def advanceCounters (k : Core) : Core := forVoices advanceCounter k

/-- Step 8: the noise value overrides the raw sample of a noise voice (R386, 43_interp_pitch_noise R300). -/
def voiceSample (k : Core) (raw : List Half) (v : VoiceId) : Half :=
  if voiceBit k.non v then k.noise.level else raw.getD v.val 0

/-! ## Steps 9 and 10 -/

/-- A sample scaled by a volume: the product shifted by 15 and clamped (R371, 92 D18). -/
def scale (x vol : Half) : Half := clamp16 (mulsh x.toInt vol.toInt 15)

/-- The sample after the envelope: the product shifted by 15, which fits an `s16` (R371). -/
def postEnvelope (raw level : Half) : Half := BitVec.ofInt 16 (mulsh raw.toInt level.toInt 15)

/-- Step 9 for one voice: the output latched (R371). -/
def latchOut (raw : List Half) (v : VoiceId) (k : Core) : Core :=
  k.updVoice v fun w => { w with out := postEnvelope (voiceSample k raw v) w.env.level }

/-- Step 9: every voice's output latched (R371). -/
def latchOuts (raw : List Half) (k : Core) : Core := forVoices (latchOut raw) k

/-- A voice's sample after its stereo volume (R371). -/
def panned (k : Core) (ch : Side) (v : VoiceId) : Half :=
  scale (k.voice v).out ((k.voice v).vol.get ch).level

/-- One voice bus: the voices of a mask, added with saturation in ascending order (R372). -/
def voiceBus (k : Core) (mask : VoiceMask) (ch : Side) : Half :=
  voiceIds.foldl (fun acc v => if voiceBit mask v then satAdd acc (panned k ch v) else acc) 0

/-- Step 10: the dry voice buses (R372). -/
def dryBus (k : Core) : Frame := ⟨voiceBus k k.vmixl .left, voiceBus k k.vmixr .right⟩

/-- Step 10: the wet voice buses (R372). -/
def wetBus (k : Core) : Frame := ⟨voiceBus k k.vmixel .left, voiceBus k k.vmixer .right⟩

/-! ## Steps 11 to 13 -/

/-- Memory-in of one channel: the word read, and the address tested (R373). -/
def readMemin (cfg : Config) (c : CoreId) (ch : Side) (e : Engine) : Engine × Half :=
  let a := inputAddr c ch (e.core c).outPos
  (irqTest cfg c a .memin e, ramRead e.ram a)

/-- Memory-in of both channels, left first (R373). -/
def readMemins (cfg : Config) (c : CoreId) (e : Engine) : Engine × Frame :=
  let l := readMemin cfg c .left e
  let r := readMemin cfg c .right l.1
  (r.1, ⟨l.2, r.2⟩)

/-- A frame scaled by a volume pair (R374, R376). -/
def scaleFrame (x vol : Frame) : Frame := ⟨scale x.left vol.left, scale x.right vol.right⟩

/-- The three routed inputs of one bus, added in the order voice, sound-in, memory-in (R374, R377). -/
def routed (k : Core) (fVoice fSin fMemin : BitField) (voice sin memin : Half) : Half :=
  satAdd (satAdd (k.route fVoice voice) (k.route fSin sin)) (k.route fMemin memin)

/-- The wet input of the reverb, from the sound-in and the memory-in of the tick (R374). -/
def wetInput (k : Core) (sin memin : Frame) : Frame :=
  let s := scaleFrame sin k.avol
  let m := scaleFrame memin k.bvol
  ⟨routed k mixVoiceWet.left mixSinWet.left mixMeminWet.left (wetBus k).left s.left m.left,
    routed k mixVoiceWet.right mixSinWet.right mixMeminWet.right (wetBus k).right s.right m.right⟩

/-- The dry mix, from the sound-in and the memory-in of the tick (R377). -/
def dryMix (k : Core) (sin memin : Frame) : Frame :=
  let s := scaleFrame sin k.avol
  let m := scaleFrame memin k.bvol
  ⟨routed k mixVoice.left mixSin.left mixMemin.left (dryBus k).left s.left m.left,
    routed k mixVoice.right mixSin.right mixMemin.right (dryBus k).right s.right m.right⟩

/-- Two frames added with saturation (R377). -/
def addFrame (x y : Frame) : Frame := ⟨satAdd x.left y.left, satAdd x.right y.right⟩

/-! ## Steps 14 and 15 -/

/-- Step 14: the captures of voices 1 and 3 and of the voice buses of `k`, in this order (R379). -/
def captureOuts (cfg : Config) (c : CoreId) (k : Core) (e : Engine) : Engine :=
  let e := capWrite cfg c .voice1 (k.voice 1).out e
  let e := capWrite cfg c .voice3 (k.voice 3).out e
  let e := capWrite cfg c .dryL (dryBus k).left e
  let e := capWrite cfg c .dryR (dryBus k).right e
  let e := capWrite cfg c .wetL (wetBus k).left e
  capWrite cfg c .wetR (wetBus k).right e

/-- The position moved on by one (R380). -/
def Core.advanceOutPos (k : Core) : Core := { k with outPos := k.outPos + 1 }

/-- The half bit set to the half that is now active (R380). -/
def Engine.setHalf (e : Engine) (b : Bool) : Engine := { e with irqstat := { e.irqstat with half := b } }

/-- Step 14: the half flip and the Auto-DMA trigger, at every multiple of 0x100 (R380). -/
def flipHalf (c : CoreId) (e : Engine) : Engine :=
  let p := (e.core c).outPos
  if p.extractLsb' 0 8 = 0#8 then (e.setHalf (p.getLsbD 8)).updCore c (admaTrigger c) else e

/-- Step 14: the position moved on, then the half flip (R380). -/
def advancePosition (c : CoreId) (e : Engine) : Engine := flipHalf c (e.updCore c Core.advanceOutPos)

/-- The master volume units after this tick's sweep (R382). -/
def Core.sweepMaster (cfg : Config) (k : Core) : Core :=
  { k with
    mvol := ⟨volTick cfg.envFracBits.val k.mvol.left, volTick cfg.envFracBits.val k.mvol.right⟩ }

/-- The levels of the master volume. -/
def Core.masterLevel (k : Core) : Frame := ⟨k.mvol.left.level, k.mvol.right.level⟩

/-! ## The tick -/

/-- Steps 1 to 9 of the tick: everything up to the voices' latched outputs (R363). A voice that step 2 leaves released at level 0 is Stopped by step 6 of this same tick (R226, R370), where 42_adpcm R277 and 70_reset R483 speak of the next one: DESIGN CHOICE, log 22. -/
def voiceSteps (cfg : Config) (c : CoreId) (sin : Frame) (e : Engine) : Engine :=
  let e := captureSin cfg c sin e
  let e := e.updCore c processKeys
  let e := testVoices cfg c e
  let e := decodeVoices cfg c e
  let raw := rawSamples cfg (e.core c)
  let e := e.updCore c (envelopeVoices cfg)
  let e := e.updCore c advanceCounters
  e.updCore c (latchOuts raw)

/-- The mix of step 13, from the core of step 10, the sound-in, the memory-in and the reverb's return (R376, R377). -/
def finalMix (k : Core) (sin memin rvb : Frame) : Frame := addFrame (dryMix k sin memin) (scaleFrame rvb k.evol)

/-- Step 15 on the core: the noise generator and the master volume sweep (R382). -/
def Core.endTick (cfg : Config) (k : Core) : Core := k.noiseTick.sweepMaster cfg

/-- Steps 10 to 15 of the tick: buses, reverb, captures, output (R363). -/
def mixSteps (cfg : Config) (c : CoreId) (sin : Frame) (e : Engine) : Engine × Frame :=
  let k := e.core c
  let m := readMemins cfg c e
  let r := reverb cfg c (wetInput k sin m.2) m.1
  let e := (advancePosition c (captureOuts cfg c k r.1)).updCore c (Core.endTick cfg)
  (e, scaleFrame (finalMix k sin m.2 r.2) (e.core c).masterLevel)

/-- `Tick(c, sin)` (R362, R363). -/
def tick (cfg : Config) (c : CoreId) (sin : Frame) (e : Engine) : Engine × Frame :=
  mixSteps cfg c sin (voiceSteps cfg c sin e)

/-! ## RUN -/

/-- Core 0's tick, then core 1's with core 0's output as its sound-in (R361). -/
def tickBoth (cfg : Config) (sin : Frame) (e : Engine) : Engine :=
  let r0 := tick cfg .core0 sin e
  let r1 := tick cfg .core1 r0.2 r0.1
  r1.1.emit (.frame r1.2)

/-- One round of the loop of `RUN` after its subtraction: the next external sample is taken (R361, log 10). -/
def tickPair (s : State) : State :=
  { s with
    engine := tickBoth s.cfg (s.extIn.headD s.cfg.extIn) s.engine
    extIn := s.extIn.tail }

/-- `n` rounds of the loop of `RUN` (R361, log 18). -/
def runTicks : Nat → State → State
  | 0, s => s
  | n + 1, s => runTicks n (tickPair { s with runAcc := s.runAcc - s.cfg.tickCycles.val })

/-- `RUN n` (R361): as many rounds as the accumulated cycles hold quanta (log 18). -/
def runCycles (n : Nat) (s : State) : State :=
  let s := { s with runAcc := s.runAcc + n }
  runTicks (s.runAcc / s.cfg.tickCycles.val) s

end Sys2Proof.Machine
end

