-- ==== Sys2Proof/Machine/HostOps.lean ====
section
/-! DEFINITION. The clock, the DMA operations and RESET (00_scope R5). -/

namespace Sys2Proof.Machine

/-- `RUN` (45_mixer R361). -/
def execRun (n : Half) (s : State) : Result :=
  .next (runCycles n.toNat s)

/-- The words of a host stream that the host did not supply, in the operation being performed (log 6). -/
def missingWords (s : State) : Nat → Half := Config.missingHostWord s.opCount

/-- `RUNDMA` (46_dma R405). -/
def execRunDma (c : CoreId) (n : Half) (s : State) : Result :=
  .next { s with engine := runDma s.cfg (missingWords s) c n.toNat s.engine }

/-- `DMAWR` (46_dma R402), with the stream the host supplies. -/
def execDmaWr (c : CoreId) (n : Half) (s : State) : Result :=
  .next { s with engine := startWrite s.cfg (missingWords s) c n.toNat (s.supply.take n.toNat) s.engine }

/-- `DMARD` (46_dma R403). -/
def execDmaRd (c : CoreId) (n : Half) (s : State) : Result :=
  .next { s with engine := startRead s.cfg (missingWords s) c n.toNat s.engine }

/-- The state after `RESET`: every element of 10_state at its reset value but for the RAM; the parameters, the record of the observables and what the host has queued are no elements of the block (70_reset R470, R471). -/
def resetBlock (s : State) : State :=
  let fresh := State.powerOn s.cfg
  { s with
    engine := { fresh.engine with ram := s.engine.ram, log := s.engine.log }
    spdif := fresh.spdif
    runAcc := fresh.runAcc
    fault := fresh.fault }

/-- `RESET` (70_reset R470). -/
def execReset (s : State) : Result :=
  .next (resetBlock s)

end Sys2Proof.Machine
end

