-- ==== Sys2Proof/Machine/ReverbRegs.lean ====
section
/-! DEFINITION. The 22 reverb offset registers and the 10 reverb coefficients (40_register_access R172, R180). Member `[0]` of a pair is `.left`. -/

namespace Sys2Proof.Machine

/-- `dAPF0_H` (R172): the high half of `dAPF[0]`. -/
def execDAPF0_H (c : CoreId) (a : Access) (s : State) : Result :=
  offsetHigh c .dAPF .left a s

/-- `dAPF0_L` (R172): the low half of `dAPF[0]`. -/
def execDAPF0_L (c : CoreId) (a : Access) (s : State) : Result :=
  offsetLow c .dAPF .left a s

/-- `dAPF1_H` (R172): the high half of `dAPF[1]`. -/
def execDAPF1_H (c : CoreId) (a : Access) (s : State) : Result :=
  offsetHigh c .dAPF .right a s

/-- `dAPF1_L` (R172): the low half of `dAPF[1]`. -/
def execDAPF1_L (c : CoreId) (a : Access) (s : State) : Result :=
  offsetLow c .dAPF .right a s

/-- `mSAME0_H` (R172): the high half of `mSAME[0]`. -/
def execMSAME0_H (c : CoreId) (a : Access) (s : State) : Result :=
  offsetHigh c .mSAME .left a s

/-- `mSAME0_L` (R172): the low half of `mSAME[0]`. -/
def execMSAME0_L (c : CoreId) (a : Access) (s : State) : Result :=
  offsetLow c .mSAME .left a s

/-- `mSAME1_H` (R172): the high half of `mSAME[1]`. -/
def execMSAME1_H (c : CoreId) (a : Access) (s : State) : Result :=
  offsetHigh c .mSAME .right a s

/-- `mSAME1_L` (R172): the low half of `mSAME[1]`. -/
def execMSAME1_L (c : CoreId) (a : Access) (s : State) : Result :=
  offsetLow c .mSAME .right a s

/-- `mCOMB1_0_H` (R172): the high half of `mCOMB1[0]`. -/
def execMCOMB1_0_H (c : CoreId) (a : Access) (s : State) : Result :=
  offsetHigh c .mCOMB1 .left a s

/-- `mCOMB1_0_L` (R172): the low half of `mCOMB1[0]`. -/
def execMCOMB1_0_L (c : CoreId) (a : Access) (s : State) : Result :=
  offsetLow c .mCOMB1 .left a s

/-- `mCOMB1_1_H` (R172): the high half of `mCOMB1[1]`. -/
def execMCOMB1_1_H (c : CoreId) (a : Access) (s : State) : Result :=
  offsetHigh c .mCOMB1 .right a s

/-- `mCOMB1_1_L` (R172): the low half of `mCOMB1[1]`. -/
def execMCOMB1_1_L (c : CoreId) (a : Access) (s : State) : Result :=
  offsetLow c .mCOMB1 .right a s

/-- `mCOMB2_0_H` (R172): the high half of `mCOMB2[0]`. -/
def execMCOMB2_0_H (c : CoreId) (a : Access) (s : State) : Result :=
  offsetHigh c .mCOMB2 .left a s

/-- `mCOMB2_0_L` (R172): the low half of `mCOMB2[0]`. -/
def execMCOMB2_0_L (c : CoreId) (a : Access) (s : State) : Result :=
  offsetLow c .mCOMB2 .left a s

/-- `mCOMB2_1_H` (R172): the high half of `mCOMB2[1]`. -/
def execMCOMB2_1_H (c : CoreId) (a : Access) (s : State) : Result :=
  offsetHigh c .mCOMB2 .right a s

/-- `mCOMB2_1_L` (R172): the low half of `mCOMB2[1]`. -/
def execMCOMB2_1_L (c : CoreId) (a : Access) (s : State) : Result :=
  offsetLow c .mCOMB2 .right a s

/-- `dSAME0_H` (R172): the high half of `dSAME[0]`. -/
def execDSAME0_H (c : CoreId) (a : Access) (s : State) : Result :=
  offsetHigh c .dSAME .left a s

/-- `dSAME0_L` (R172): the low half of `dSAME[0]`. -/
def execDSAME0_L (c : CoreId) (a : Access) (s : State) : Result :=
  offsetLow c .dSAME .left a s

/-- `dSAME1_H` (R172): the high half of `dSAME[1]`. -/
def execDSAME1_H (c : CoreId) (a : Access) (s : State) : Result :=
  offsetHigh c .dSAME .right a s

/-- `dSAME1_L` (R172): the low half of `dSAME[1]`. -/
def execDSAME1_L (c : CoreId) (a : Access) (s : State) : Result :=
  offsetLow c .dSAME .right a s

/-- `mDIFF0_H` (R172): the high half of `mDIFF[0]`. -/
def execMDIFF0_H (c : CoreId) (a : Access) (s : State) : Result :=
  offsetHigh c .mDIFF .left a s

/-- `mDIFF0_L` (R172): the low half of `mDIFF[0]`. -/
def execMDIFF0_L (c : CoreId) (a : Access) (s : State) : Result :=
  offsetLow c .mDIFF .left a s

/-- `mDIFF1_H` (R172): the high half of `mDIFF[1]`. -/
def execMDIFF1_H (c : CoreId) (a : Access) (s : State) : Result :=
  offsetHigh c .mDIFF .right a s

/-- `mDIFF1_L` (R172): the low half of `mDIFF[1]`. -/
def execMDIFF1_L (c : CoreId) (a : Access) (s : State) : Result :=
  offsetLow c .mDIFF .right a s

/-- `mCOMB3_0_H` (R172): the high half of `mCOMB3[0]`. -/
def execMCOMB3_0_H (c : CoreId) (a : Access) (s : State) : Result :=
  offsetHigh c .mCOMB3 .left a s

/-- `mCOMB3_0_L` (R172): the low half of `mCOMB3[0]`. -/
def execMCOMB3_0_L (c : CoreId) (a : Access) (s : State) : Result :=
  offsetLow c .mCOMB3 .left a s

/-- `mCOMB3_1_H` (R172): the high half of `mCOMB3[1]`. -/
def execMCOMB3_1_H (c : CoreId) (a : Access) (s : State) : Result :=
  offsetHigh c .mCOMB3 .right a s

/-- `mCOMB3_1_L` (R172): the low half of `mCOMB3[1]`. -/
def execMCOMB3_1_L (c : CoreId) (a : Access) (s : State) : Result :=
  offsetLow c .mCOMB3 .right a s

/-- `mCOMB4_0_H` (R172): the high half of `mCOMB4[0]`. -/
def execMCOMB4_0_H (c : CoreId) (a : Access) (s : State) : Result :=
  offsetHigh c .mCOMB4 .left a s

/-- `mCOMB4_0_L` (R172): the low half of `mCOMB4[0]`. -/
def execMCOMB4_0_L (c : CoreId) (a : Access) (s : State) : Result :=
  offsetLow c .mCOMB4 .left a s

/-- `mCOMB4_1_H` (R172): the high half of `mCOMB4[1]`. -/
def execMCOMB4_1_H (c : CoreId) (a : Access) (s : State) : Result :=
  offsetHigh c .mCOMB4 .right a s

/-- `mCOMB4_1_L` (R172): the low half of `mCOMB4[1]`. -/
def execMCOMB4_1_L (c : CoreId) (a : Access) (s : State) : Result :=
  offsetLow c .mCOMB4 .right a s

/-- `dDIFF0_H` (R172): the high half of `dDIFF[0]`. -/
def execDDIFF0_H (c : CoreId) (a : Access) (s : State) : Result :=
  offsetHigh c .dDIFF .left a s

/-- `dDIFF0_L` (R172): the low half of `dDIFF[0]`. -/
def execDDIFF0_L (c : CoreId) (a : Access) (s : State) : Result :=
  offsetLow c .dDIFF .left a s

/-- `dDIFF1_H` (R172): the high half of `dDIFF[1]`. -/
def execDDIFF1_H (c : CoreId) (a : Access) (s : State) : Result :=
  offsetHigh c .dDIFF .right a s

/-- `dDIFF1_L` (R172): the low half of `dDIFF[1]`. -/
def execDDIFF1_L (c : CoreId) (a : Access) (s : State) : Result :=
  offsetLow c .dDIFF .right a s

/-- `mAPF1_0_H` (R172): the high half of `mAPF1[0]`. -/
def execMAPF1_0_H (c : CoreId) (a : Access) (s : State) : Result :=
  offsetHigh c .mAPF1 .left a s

/-- `mAPF1_0_L` (R172): the low half of `mAPF1[0]`. -/
def execMAPF1_0_L (c : CoreId) (a : Access) (s : State) : Result :=
  offsetLow c .mAPF1 .left a s

/-- `mAPF1_1_H` (R172): the high half of `mAPF1[1]`. -/
def execMAPF1_1_H (c : CoreId) (a : Access) (s : State) : Result :=
  offsetHigh c .mAPF1 .right a s

/-- `mAPF1_1_L` (R172): the low half of `mAPF1[1]`. -/
def execMAPF1_1_L (c : CoreId) (a : Access) (s : State) : Result :=
  offsetLow c .mAPF1 .right a s

/-- `mAPF2_0_H` (R172): the high half of `mAPF2[0]`. -/
def execMAPF2_0_H (c : CoreId) (a : Access) (s : State) : Result :=
  offsetHigh c .mAPF2 .left a s

/-- `mAPF2_0_L` (R172): the low half of `mAPF2[0]`. -/
def execMAPF2_0_L (c : CoreId) (a : Access) (s : State) : Result :=
  offsetLow c .mAPF2 .left a s

/-- `mAPF2_1_H` (R172): the high half of `mAPF2[1]`. -/
def execMAPF2_1_H (c : CoreId) (a : Access) (s : State) : Result :=
  offsetHigh c .mAPF2 .right a s

/-- `mAPF2_1_L` (R172): the low half of `mAPF2[1]`. -/
def execMAPF2_1_L (c : CoreId) (a : Access) (s : State) : Result :=
  offsetLow c .mAPF2 .right a s

/-- `vIIR` (R180): storage. -/
def execVIIR (c : CoreId) (a : Access) (s : State) : Result :=
  coefAccess c .vIIR a s

/-- `vCOMB1` (R180): storage. -/
def execVCOMB1 (c : CoreId) (a : Access) (s : State) : Result :=
  coefAccess c .vCOMB1 a s

/-- `vCOMB2` (R180): storage. -/
def execVCOMB2 (c : CoreId) (a : Access) (s : State) : Result :=
  coefAccess c .vCOMB2 a s

/-- `vCOMB3` (R180): storage. -/
def execVCOMB3 (c : CoreId) (a : Access) (s : State) : Result :=
  coefAccess c .vCOMB3 a s

/-- `vCOMB4` (R180): storage. -/
def execVCOMB4 (c : CoreId) (a : Access) (s : State) : Result :=
  coefAccess c .vCOMB4 a s

/-- `vWALL` (R180): storage. -/
def execVWALL (c : CoreId) (a : Access) (s : State) : Result :=
  coefAccess c .vWALL a s

/-- `vAPF1` (R180): storage. -/
def execVAPF1 (c : CoreId) (a : Access) (s : State) : Result :=
  coefAccess c .vAPF1 a s

/-- `vAPF2` (R180): storage. -/
def execVAPF2 (c : CoreId) (a : Access) (s : State) : Result :=
  coefAccess c .vAPF2 a s

/-- `vIN0` (R180): storage. -/
def execVIN0 (c : CoreId) (a : Access) (s : State) : Result :=
  coefAccess c .vIN0 a s

/-- `vIN1` (R180): storage. -/
def execVIN1 (c : CoreId) (a : Access) (s : State) : Result :=
  coefAccess c .vIN1 a s

end Sys2Proof.Machine
end

