-- ==== Sys2Proof/Machine/SharedRegs.lean ====
section
/-! DEFINITION. The shared registers and the unmapped addresses (40_register_access sections 7 and 8). -/

namespace Sys2Proof.Machine

/-- `IRQSTAT` (R181): read-only. -/
def execIrqstat (a : Access) (s : State) : Result :=
  readOnlyAccess (fun s => irqstatRead s.engine.irqstat) a s

/-- `SPDIF_OUT` (R182): storage without effect. -/
def execSpdifOut (a : Access) (s : State) : Result :=
  registerAccess (fun s => s.spdif.out) (fun d s => { s with spdif := { s.spdif with out := d } }) a s

/-- `SPDIF_MODE` (R182): storage without effect. -/
def execSpdifMode (a : Access) (s : State) : Result :=
  registerAccess (fun s => s.spdif.mode) (fun d s => { s with spdif := { s.spdif with mode := d } }) a s

/-- `SPDIF_MEDIA` (R182): storage without effect. -/
def execSpdifMedia (a : Access) (s : State) : Result :=
  registerAccess (fun s => s.spdif.media) (fun d s => { s with spdif := { s.spdif with media := d } }) a s

/-- An access to a register address that holds no register, in the release build: it is recorded, a read returns 0 and a write does nothing (R183, 60_exceptions R447). -/
def unmappedRelease (ra : Half) (a : Access) (s : State) : Result :=
  match a with
  | .read => returnRead (recordUnmapped ra false s) 0
  | .write _ => .next (recordUnmapped ra true s)

/-- Whether an access is a write. -/
def accessIsWrite : Access → Bool
  | .read => false
  | .write _ => true

/-- `UNMAPPED` (R183): in the debug build the model stops (60_exceptions R447). -/
def execUnmapped (ra : Half) (a : Access) (s : State) : Result :=
  match s.cfg.build with
  | .release => unmappedRelease ra a s
  | .debug => .fault (.unmappedRegister ra (accessIsWrite a))

end Sys2Proof.Machine
end

