-- ==== Sys2Proof/Machine/VoiceRegs.lean ====
section
/-! DEFINITION. The voice registers (40_register_access sections 2 and 3): a read returns its value, a write acts on the one voice. -/

namespace Sys2Proof.Machine

/-- `VOLL` (R142): the left volume unit. -/
def execVoll (c : CoreId) (v : VoiceId) (a : Access) (s : State) : Result :=
  voiceAccess c v (fun w => w.vol.left.reg)
    (fun d w => { w with vol := { w.vol with left := writeVolume d w.vol.left } }) a s

/-- `VOLR` (R142): the right volume unit. -/
def execVolr (c : CoreId) (v : VoiceId) (a : Access) (s : State) : Result :=
  voiceAccess c v (fun w => w.vol.right.reg)
    (fun d w => { w with vol := { w.vol with right := writeVolume d w.vol.right } }) a s

/-- `PITCH` (R143): storage. -/
def execPitch (c : CoreId) (v : VoiceId) (a : Access) (s : State) : Result :=
  voiceAccess c v (fun w => w.pitch) (fun d w => { w with pitch := d }) a s

/-- `ADSR1` (R144): storage. -/
def execAdsr1 (c : CoreId) (v : VoiceId) (a : Access) (s : State) : Result :=
  voiceAccess c v (fun w => w.adsr1) (fun d w => { w with adsr1 := d }) a s

/-- `ADSR2` (R145): storage. -/
def execAdsr2 (c : CoreId) (v : VoiceId) (a : Access) (s : State) : Result :=
  voiceAccess c v (fun w => w.adsr2) (fun d w => { w with adsr2 := d }) a s

/-- `ENVX` (R146): the envelope level, read-only. -/
def execEnvx (c : CoreId) (v : VoiceId) (a : Access) (s : State) : Result :=
  readOnlyAccess (fun s => (s.voice c v).env.level) a s

/-- `VOLXL` (R147): the left volume level, read-only. -/
def execVolxl (c : CoreId) (v : VoiceId) (a : Access) (s : State) : Result :=
  readOnlyAccess (fun s => (s.voice c v).vol.left.level) a s

/-- `VOLXR` (R147): the right volume level, read-only. -/
def execVolxr (c : CoreId) (v : VoiceId) (a : Access) (s : State) : Result :=
  readOnlyAccess (fun s => (s.voice c v).vol.right.level) a s

/-- `SSA_H` (R148): the high half of the start address. -/
def execSsaH (c : CoreId) (v : VoiceId) (a : Access) (s : State) : Result :=
  voiceAccess c v (fun w => addrHigh w.ssa) (fun d w => { w with ssa := setAddrHigh w.ssa d }) a s

/-- `SSA_L` (R148): the low half of the start address. -/
def execSsaL (c : CoreId) (v : VoiceId) (a : Access) (s : State) : Result :=
  voiceAccess c v (fun w => addrLow w.ssa) (fun d w => { w with ssa := setAddrLow w.ssa d }) a s

/-- `LSA_H` (R149): the high half of the loop address; a write sets the custom-loop latch. -/
def execLsaH (c : CoreId) (v : VoiceId) (a : Access) (s : State) : Result :=
  voiceAccess c v (fun w => addrHigh w.lsa)
    (fun d w => { w with lsa := setAddrHigh w.lsa d, customLoop := true }) a s

/-- `LSA_L` (R149): the low half of the loop address; a write sets the custom-loop latch. -/
def execLsaL (c : CoreId) (v : VoiceId) (a : Access) (s : State) : Result :=
  voiceAccess c v (fun w => addrLow w.lsa)
    (fun d w => { w with lsa := setAddrLow w.lsa d, customLoop := true }) a s

/-- `NAX_H` (R150): the high half of the read cursor, read-only. -/
def execNaxH (c : CoreId) (v : VoiceId) (a : Access) (s : State) : Result :=
  readOnlyAccess (fun s => addrHigh (s.voice c v).nax) a s

/-- `NAX_L` (R150): the low half of the read cursor, read-only. -/
def execNaxL (c : CoreId) (v : VoiceId) (a : Access) (s : State) : Result :=
  readOnlyAccess (fun s => addrLow (s.voice c v).nax) a s

end Sys2Proof.Machine
end

