-- ==== Sys2Proof/Machine/VolumeRegs.lean ====
section
/-! DEFINITION. The master, effect, external and memory volumes (40_register_access section 6). -/

namespace Sys2Proof.Machine

/-- `MVOLL` (R177): the left master volume unit. -/
def execMvoll (c : CoreId) (a : Access) (s : State) : Result :=
  coreAccess c (fun k => k.mvol.left.reg)
    (fun d k => { k with mvol := { k.mvol with left := writeVolume d k.mvol.left } }) a s

/-- `MVOLR` (R177): the right master volume unit. -/
def execMvolr (c : CoreId) (a : Access) (s : State) : Result :=
  coreAccess c (fun k => k.mvol.right.reg)
    (fun d k => { k with mvol := { k.mvol with right := writeVolume d k.mvol.right } }) a s

/-- `EVOLL` (R179): storage. -/
def execEvoll (c : CoreId) (a : Access) (s : State) : Result :=
  coreAccess c (fun k => k.evol.left) (fun d k => { k with evol := { k.evol with left := d } }) a s

/-- `EVOLR` (R179): storage. -/
def execEvolr (c : CoreId) (a : Access) (s : State) : Result :=
  coreAccess c (fun k => k.evol.right) (fun d k => { k with evol := { k.evol with right := d } }) a s

/-- `AVOLL` (R179): storage. -/
def execAvoll (c : CoreId) (a : Access) (s : State) : Result :=
  coreAccess c (fun k => k.avol.left) (fun d k => { k with avol := { k.avol with left := d } }) a s

/-- `AVOLR` (R179): storage. -/
def execAvolr (c : CoreId) (a : Access) (s : State) : Result :=
  coreAccess c (fun k => k.avol.right) (fun d k => { k with avol := { k.avol with right := d } }) a s

/-- `BVOLL` (R179): storage. -/
def execBvoll (c : CoreId) (a : Access) (s : State) : Result :=
  coreAccess c (fun k => k.bvol.left) (fun d k => { k with bvol := { k.bvol with left := d } }) a s

/-- `BVOLR` (R179): storage. -/
def execBvolr (c : CoreId) (a : Access) (s : State) : Result :=
  coreAccess c (fun k => k.bvol.right) (fun d k => { k with bvol := { k.bvol with right := d } }) a s

/-- `MVOLXL` (R178): the left master level, read-only. -/
def execMvolxl (c : CoreId) (a : Access) (s : State) : Result :=
  readOnlyAccess (fun s => (s.core c).mvol.left.level) a s

/-- `MVOLXR` (R178): the right master level, read-only. -/
def execMvolxr (c : CoreId) (a : Access) (s : State) : Result :=
  readOnlyAccess (fun s => (s.core c).mvol.right.level) a s

end Sys2Proof.Machine
end

