-- ==== Sys2Proof/Machine/Dispatch.lean ====
section
/-! DEFINITION. One arm per operation, each a call of its meaning. -/

namespace Sys2Proof.Machine

/-- The meaning of an operation (00_scope R5). -/
def exec (i : Instr) (s : State) : Host.Outcome State Fault Refusal :=
  match i with
  | .voll c v a => Sys2Proof.Machine.execVoll c v a s
  | .volr c v a => Sys2Proof.Machine.execVolr c v a s
  | .pitch c v a => Sys2Proof.Machine.execPitch c v a s
  | .adsr1 c v a => Sys2Proof.Machine.execAdsr1 c v a s
  | .adsr2 c v a => Sys2Proof.Machine.execAdsr2 c v a s
  | .envx c v a => Sys2Proof.Machine.execEnvx c v a s
  | .volxl c v a => Sys2Proof.Machine.execVolxl c v a s
  | .volxr c v a => Sys2Proof.Machine.execVolxr c v a s
  | .ssaH c v a => Sys2Proof.Machine.execSsaH c v a s
  | .ssaL c v a => Sys2Proof.Machine.execSsaL c v a s
  | .lsaH c v a => Sys2Proof.Machine.execLsaH c v a s
  | .lsaL c v a => Sys2Proof.Machine.execLsaL c v a s
  | .naxH c v a => Sys2Proof.Machine.execNaxH c v a s
  | .naxL c v a => Sys2Proof.Machine.execNaxL c v a s
  | .pmonL c a => Sys2Proof.Machine.execPmonL c a s
  | .pmonH c a => Sys2Proof.Machine.execPmonH c a s
  | .nonL c a => Sys2Proof.Machine.execNonL c a s
  | .nonH c a => Sys2Proof.Machine.execNonH c a s
  | .vmixlL c a => Sys2Proof.Machine.execVmixlL c a s
  | .vmixlH c a => Sys2Proof.Machine.execVmixlH c a s
  | .vmixelL c a => Sys2Proof.Machine.execVmixelL c a s
  | .vmixelH c a => Sys2Proof.Machine.execVmixelH c a s
  | .vmixrL c a => Sys2Proof.Machine.execVmixrL c a s
  | .vmixrH c a => Sys2Proof.Machine.execVmixrH c a s
  | .vmixerL c a => Sys2Proof.Machine.execVmixerL c a s
  | .vmixerH c a => Sys2Proof.Machine.execVmixerH c a s
  | .mmix c a => Sys2Proof.Machine.execMmix c a s
  | .attr c a => Sys2Proof.Machine.execAttr c a s
  | .irqaH c a => Sys2Proof.Machine.execIrqaH c a s
  | .irqaL c a => Sys2Proof.Machine.execIrqaL c a s
  | .konL c a => Sys2Proof.Machine.execKonL c a s
  | .konH c a => Sys2Proof.Machine.execKonH c a s
  | .koffL c a => Sys2Proof.Machine.execKoffL c a s
  | .koffH c a => Sys2Proof.Machine.execKoffH c a s
  | .tsaH c a => Sys2Proof.Machine.execTsaH c a s
  | .tsaL c a => Sys2Proof.Machine.execTsaL c a s
  | .unmapped ra a => Sys2Proof.Machine.execUnmapped ra a s
  | .admas c a => Sys2Proof.Machine.execAdmas c a s
  | .esaH c a => Sys2Proof.Machine.execEsaH c a s
  | .esaL c a => Sys2Proof.Machine.execEsaL c a s
  | .dAPF0_H c a => Sys2Proof.Machine.execDAPF0_H c a s
  | .dAPF0_L c a => Sys2Proof.Machine.execDAPF0_L c a s
  | .dAPF1_H c a => Sys2Proof.Machine.execDAPF1_H c a s
  | .dAPF1_L c a => Sys2Proof.Machine.execDAPF1_L c a s
  | .mSAME0_H c a => Sys2Proof.Machine.execMSAME0_H c a s
  | .mSAME0_L c a => Sys2Proof.Machine.execMSAME0_L c a s
  | .mSAME1_H c a => Sys2Proof.Machine.execMSAME1_H c a s
  | .mSAME1_L c a => Sys2Proof.Machine.execMSAME1_L c a s
  | .mCOMB1_0_H c a => Sys2Proof.Machine.execMCOMB1_0_H c a s
  | .mCOMB1_0_L c a => Sys2Proof.Machine.execMCOMB1_0_L c a s
  | .mCOMB1_1_H c a => Sys2Proof.Machine.execMCOMB1_1_H c a s
  | .mCOMB1_1_L c a => Sys2Proof.Machine.execMCOMB1_1_L c a s
  | .mCOMB2_0_H c a => Sys2Proof.Machine.execMCOMB2_0_H c a s
  | .mCOMB2_0_L c a => Sys2Proof.Machine.execMCOMB2_0_L c a s
  | .mCOMB2_1_H c a => Sys2Proof.Machine.execMCOMB2_1_H c a s
  | .mCOMB2_1_L c a => Sys2Proof.Machine.execMCOMB2_1_L c a s
  | .dSAME0_H c a => Sys2Proof.Machine.execDSAME0_H c a s
  | .dSAME0_L c a => Sys2Proof.Machine.execDSAME0_L c a s
  | .dSAME1_H c a => Sys2Proof.Machine.execDSAME1_H c a s
  | .dSAME1_L c a => Sys2Proof.Machine.execDSAME1_L c a s
  | .mDIFF0_H c a => Sys2Proof.Machine.execMDIFF0_H c a s
  | .mDIFF0_L c a => Sys2Proof.Machine.execMDIFF0_L c a s
  | .mDIFF1_H c a => Sys2Proof.Machine.execMDIFF1_H c a s
  | .mDIFF1_L c a => Sys2Proof.Machine.execMDIFF1_L c a s
  | .mCOMB3_0_H c a => Sys2Proof.Machine.execMCOMB3_0_H c a s
  | .mCOMB3_0_L c a => Sys2Proof.Machine.execMCOMB3_0_L c a s
  | .mCOMB3_1_H c a => Sys2Proof.Machine.execMCOMB3_1_H c a s
  | .mCOMB3_1_L c a => Sys2Proof.Machine.execMCOMB3_1_L c a s
  | .mCOMB4_0_H c a => Sys2Proof.Machine.execMCOMB4_0_H c a s
  | .mCOMB4_0_L c a => Sys2Proof.Machine.execMCOMB4_0_L c a s
  | .mCOMB4_1_H c a => Sys2Proof.Machine.execMCOMB4_1_H c a s
  | .mCOMB4_1_L c a => Sys2Proof.Machine.execMCOMB4_1_L c a s
  | .dDIFF0_H c a => Sys2Proof.Machine.execDDIFF0_H c a s
  | .dDIFF0_L c a => Sys2Proof.Machine.execDDIFF0_L c a s
  | .dDIFF1_H c a => Sys2Proof.Machine.execDDIFF1_H c a s
  | .dDIFF1_L c a => Sys2Proof.Machine.execDDIFF1_L c a s
  | .mAPF1_0_H c a => Sys2Proof.Machine.execMAPF1_0_H c a s
  | .mAPF1_0_L c a => Sys2Proof.Machine.execMAPF1_0_L c a s
  | .mAPF1_1_H c a => Sys2Proof.Machine.execMAPF1_1_H c a s
  | .mAPF1_1_L c a => Sys2Proof.Machine.execMAPF1_1_L c a s
  | .mAPF2_0_H c a => Sys2Proof.Machine.execMAPF2_0_H c a s
  | .mAPF2_0_L c a => Sys2Proof.Machine.execMAPF2_0_L c a s
  | .mAPF2_1_H c a => Sys2Proof.Machine.execMAPF2_1_H c a s
  | .mAPF2_1_L c a => Sys2Proof.Machine.execMAPF2_1_L c a s
  | .eeaH c a => Sys2Proof.Machine.execEeaH c a s
  | .eeaL c a => Sys2Proof.Machine.execEeaL c a s
  | .endxL c a => Sys2Proof.Machine.execEndxL c a s
  | .endxH c a => Sys2Proof.Machine.execEndxH c a s
  | .statx c a => Sys2Proof.Machine.execStatx c a s
  | .mvoll c a => Sys2Proof.Machine.execMvoll c a s
  | .mvolr c a => Sys2Proof.Machine.execMvolr c a s
  | .evoll c a => Sys2Proof.Machine.execEvoll c a s
  | .evolr c a => Sys2Proof.Machine.execEvolr c a s
  | .avoll c a => Sys2Proof.Machine.execAvoll c a s
  | .avolr c a => Sys2Proof.Machine.execAvolr c a s
  | .bvoll c a => Sys2Proof.Machine.execBvoll c a s
  | .bvolr c a => Sys2Proof.Machine.execBvolr c a s
  | .mvolxl c a => Sys2Proof.Machine.execMvolxl c a s
  | .mvolxr c a => Sys2Proof.Machine.execMvolxr c a s
  | .vIIR c a => Sys2Proof.Machine.execVIIR c a s
  | .vCOMB1 c a => Sys2Proof.Machine.execVCOMB1 c a s
  | .vCOMB2 c a => Sys2Proof.Machine.execVCOMB2 c a s
  | .vCOMB3 c a => Sys2Proof.Machine.execVCOMB3 c a s
  | .vCOMB4 c a => Sys2Proof.Machine.execVCOMB4 c a s
  | .vWALL c a => Sys2Proof.Machine.execVWALL c a s
  | .vAPF1 c a => Sys2Proof.Machine.execVAPF1 c a s
  | .vAPF2 c a => Sys2Proof.Machine.execVAPF2 c a s
  | .vIN0 c a => Sys2Proof.Machine.execVIN0 c a s
  | .vIN1 c a => Sys2Proof.Machine.execVIN1 c a s
  | .spdifOut a => Sys2Proof.Machine.execSpdifOut a s
  | .irqstat a => Sys2Proof.Machine.execIrqstat a s
  | .spdifMode a => Sys2Proof.Machine.execSpdifMode a s
  | .spdifMedia a => Sys2Proof.Machine.execSpdifMedia a s
  | .run n => Sys2Proof.Machine.execRun n s
  | .runDma c n => Sys2Proof.Machine.execRunDma c n s
  | .dmaWr c n => Sys2Proof.Machine.execDmaWr c n s
  | .dmaRd c n => Sys2Proof.Machine.execDmaRd c n s
  | .reset => Sys2Proof.Machine.execReset s

end Sys2Proof.Machine
end

