-- ==== Sys2Proof/Machine/Step.lean ====
section
/-! DEFINITION. One step: the next operation the host has issued, performed whole (20_memory R81). -/

namespace Sys2Proof.Machine

/-- The state in which an accepted operation is performed: the operation is taken off the queue, its words are at hand, and the record names it (log 5, log 6, log 7). -/
def State.accept (s : State) (t : Transaction) (rest : List Transaction) : State :=
  { (s.emit (.operation t.word)) with pending := rest, supply := t.supply, opCount := s.opCount + 1 }

/-- The refusal of a word that is no operation (30_encoding R126 (c)). -/
def refusalOf : DecodeError → Refusal
  | .reservedOperation cmd => .reservedOperation cmd

/-- One operation (00_scope R5). With nothing issued the block does nothing: it has no clock of its own (00_scope R4, log 5). -/
def step (s : State) : Host.Outcome State Fault Refusal :=
  match s.pending with
  | [] => .next s
  | t :: rest =>
    match decode t.word with
    | .ok i => exec i (s.accept t rest)
    | .error e => .refused (refusalOf e)

/-- The words supplied with an operation given by its table word alone: a `DMAWR` brings as many words as it names, here all 0 (46_dma R401). -/
def tableSupply (w : TransWord) : List Half :=
  if wordCmd w = 4 then List.replicate (wordData w).toNat 0 else []

/-- The state with the operation of a table word issued as the next one (log 5). -/
def State.withFetchWord (s : State) (_nbits w : Nat) : State :=
  let t := BitVec.ofNat 36 w
  { s with pending := { word := t, supply := tableSupply t } :: s.pending }

end Sys2Proof.Machine
end

