-- ==== Sys2Proof/Safety.lean ====
section
/-! DEFINITION. What counts as a safe run, the invariant of the machine, and the terms in which the statements say what an operation leaves unchanged. -/

namespace Sys2Proof.Machine

/-- The host has touched mapped registers only (60_exceptions R447). -/
def State.touchedMappedOnly (s : State) : Prop := s.fault.unmapped = none

/-- An envelope as every tick leaves it: the level within 0..0x7FFF (41_envelope R225), the fraction below 2^F (10_state R46), and a Stopped envelope silent (R226, R233). -/
structure Envelope.Ok (fracBits : Nat) (e : Envelope) : Prop where
  level_nonneg : 0 ≤ e.level.toInt
  frac_lt : e.frac < 2 ^ fracBits
  stopped_silent : e.phase = .stopped → e.level = 0 ∧ e.frac = 0

/-- A voice as every operation leaves it: its envelope, the fractions of its volume units (R47), and at most 19 buffered samples (42_adpcm R263). -/
structure Voice.Ok (fracBits : Nat) (w : Voice) : Prop where
  env : w.env.Ok fracBits
  volL : w.vol.left.frac < 2 ^ fracBits
  volR : w.vol.right.frac < 2 ^ fracBits
  buf_le : w.buf.length ≤ 19

/-- A core as every operation leaves it. -/
structure Core.Ok (fracBits : Nat) (c : CoreId) (k : Core) : Prop where
  voices : ∀ v, (k.voice v).Ok fracBits
  mvolL : k.mvol.left.frac < 2 ^ fracBits
  mvolR : k.mvol.right.frac < 2 ^ fracBits
  /-- A transfer has at most 65535 words, moved or to be moved (46_dma R402). -/
  dma_words : k.dma.hostPos + k.dma.size ≤ 65535
  /-- The countdown never stays below 0 (46_dma R405). -/
  dma_count : 0 ≤ k.dma.count
  /-- Without Auto-DMA there is no sequence in flight (40_register_access R171). -/
  adma_gated : k.admaActive c = false → k.adma.left = 0
  /-- A refill is remembered only while a sequence drains (46_dma R411, R413). -/
  adma_pending : k.adma.pending = true → k.adma.left ≠ 0
  /-- The noise timer has run out of no tick (43_interp_pitch_noise R302). -/
  timer_nonneg : 0 ≤ k.noise.timer

/-- The part of the state that ticks and bursts touch, as every operation leaves it: the RAM in its canonical form, the cores' positions in lockstep, and the half bit the half they are in (45_mixer R380). -/
structure Engine.Ok (fracBits : Nat) (e : Engine) : Prop where
  ram_wf : Memory.wf e.ram = true
  core0 : e.core0.Ok fracBits .core0
  core1 : e.core1.Ok fracBits .core1
  lockstep : e.core0.outPos = e.core1.outPos
  half_eq : e.irqstat.half = e.core0.outPos.getLsbD 8

/-- The invariant of the machine. -/
structure State.Inv (s : State) : Prop where
  engine : s.engine.Ok s.cfg.envFracBits.val
  /-- Between operations fewer cycles than one quantum are left over (10_state R23). -/
  runAcc_lt : s.runAcc < s.cfg.tickCycles.val
  /-- No phase outside the five values is ever met (60_exceptions R448). -/
  badPhase : s.fault.badPhase = false

/-! ## What an operation leaves unchanged -/

/-- Every byte of the RAM reads as before. -/
def SameRam (s t : State) : Prop := ∀ a, readByte? t.engine.ram a = readByte? s.engine.ram a

/-- Everything outside the engine is as before: the parameters, the SPDIF registers, the accumulator of `RUN`, the diagnostics, and what the host has queued. -/
structure SameOutsideEngine (s t : State) : Prop where
  cfg : t.cfg = s.cfg
  spdif : t.spdif = s.spdif
  runAcc : t.runAcc = s.runAcc
  fault : t.fault = s.fault
  pending : t.pending = s.pending
  supply : t.supply = s.supply
  extIn : t.extIn = s.extIn
  opCount : t.opCount = s.opCount

/-- Everything but the two cores is as before: no signal, no byte of RAM, no status bit. -/
structure SameBesidesCores (s t : State) : Prop where
  outside : SameOutsideEngine s t
  ram : SameRam s t
  irqstat : t.engine.irqstat = s.engine.irqstat
  log : t.engine.log = s.engine.log

/-- All of the state is as before. -/
structure SameState (s t : State) : Prop where
  besides : SameBesidesCores s t
  cores : ∀ c, t.core c = s.core c

/-- The operation completes, touches core `c` alone, and leaves it as `R` says of its old and new value. -/
def WritesCore (i : Instr) (c : CoreId) (s : State) (R : Core → Core → Prop) : Prop :=
  ∃ t, exec i s = .next t ∧ SameBesidesCores s t ∧ (∀ c', c' ≠ c → t.core c' = s.core c') ∧
    R (s.core c) (t.core c)

/-- The operation completes, touches voice `v` of core `c` alone, and leaves it as `R` says of its old and new value. -/
def WritesVoice (i : Instr) (c : CoreId) (v : VoiceId) (s : State) (R : Voice → Voice → Prop) : Prop :=
  WritesCore i c s fun k k' =>
    k' = { k with voices := k'.voices } ∧ (∀ v', v' ≠ v → k'.voice v' = k.voice v') ∧
      R (k.voice v) (k'.voice v)

/-- The operation completes, returns a value as `R` says, and changes nothing but the record of what was observed. -/
def Returns (i : Instr) (s : State) (R : Half → Prop) : Prop :=
  ∃ t d, exec i s = .next t ∧ SameOutsideEngine s t ∧ SameRam s t ∧ t.engine.irqstat = s.engine.irqstat ∧
    (∀ c, t.core c = s.core c) ∧ t.engine.log = .readData d :: s.engine.log ∧ R d

/-- The operation completes and changes nothing. -/
def Ignored (i : Instr) (s : State) : Prop := ∃ t, exec i s = .next t ∧ SameState s t

/-! ## Halves of 24-bit masks and 20-bit addresses (30_encoding R111, R112) -/

/-- `new` is `old` with bits 15..0 replaced by `d`. -/
def LowHalfWritten {n : Nat} (old : BitVec n) (d : Half) (new : BitVec n) : Prop :=
  ∀ i, i < n → new.getLsbD i = if i < 16 then d.getLsbD i else old.getLsbD i

/-- `new` is `old` with the bits from 16 on replaced by the low bits of `d`, of which the rest is ignored. -/
def HighHalfWritten {n : Nat} (old : BitVec n) (d : Half) (new : BitVec n) : Prop :=
  ∀ i, i < n → new.getLsbD i = if i < 16 then old.getLsbD i else d.getLsbD (i - 16)

/-- `d` holds bits 15..0 of `x`. -/
def IsLowHalf {n : Nat} (x : BitVec n) (d : Half) : Prop := ∀ i, i < 16 → d.getLsbD i = x.getLsbD i

/-- `d` holds the bits of `x` from 16 on, and 0 above them. -/
def IsHighHalf {n : Nat} (x : BitVec n) (d : Half) : Prop :=
  ∀ i, i < 16 → d.getLsbD i = (decide (16 + i < n) && x.getLsbD (16 + i))

/-- The reverb offset register `o[i]` alone changed, as `R` says. -/
def OffsetChanged (o : RvbOffset) (i : Side) (R : RamAddr → RamAddr → Prop) (k k' : Core) : Prop :=
  R (k.off o i) (k'.off o i) ∧ (∀ o' i', (o', i') ≠ (o, i) → k'.off o' i' = k.off o' i') ∧
    k' = { k with offs := k'.offs }

/-- The reverb coefficient `n` alone changed, to `d`. -/
def CoefStored (n : RvbCoef) (d : Half) (k k' : Core) : Prop :=
  k'.coef n = d ∧ (∀ n', n' ≠ n → k'.coef n' = k.coef n') ∧ k' = { k with coefs := k'.coefs }

/-- What a write of `d` leaves in a volume unit (40_register_access R142): a fixed volume is applied at once, doubled; a sweep starts from the level it finds. -/
def VolumeWritten (d : Half) (u u' : VolUnit) : Prop :=
  u'.reg = d ∧
    (d.getLsbD 15 = false → u'.level.toInt = (d.toInt * 2).bmod (2 ^ 16) ∧ u'.frac = 0) ∧
    (d.getLsbD 15 = true → u'.level = u.level ∧ u'.frac = u.frac)

/-! ## Parts of the state that only some operations touch -/

/-- The registers of a voice that only the host writes (10_state R42, R43). -/
structure Voice.SameSettings (w w' : Voice) : Prop where
  volL : w'.vol.left.reg = w.vol.left.reg
  volR : w'.vol.right.reg = w.vol.right.reg
  pitch : w'.pitch = w.pitch
  adsr1 : w'.adsr1 = w.adsr1
  adsr2 : w'.adsr2 = w.adsr2
  ssa : w'.ssa = w.ssa

/-- The part of a core that only register writes and the DMA operations change, the key events and the interrupt flags apart. -/
structure Core.SameSettings (k k' : Core) : Prop where
  pmon : k'.pmon = k.pmon
  non : k'.non = k.non
  vmixl : k'.vmixl = k.vmixl
  vmixel : k'.vmixel = k.vmixel
  vmixr : k'.vmixr = k.vmixr
  vmixer : k'.vmixer = k.vmixer
  mmix : k'.mmix = k.mmix
  attr : k'.attr = k.attr
  irqa : k'.irqa = k.irqa
  tsa : k'.tsa = k.tsa
  taddr : k'.taddr = k.taddr
  admas : k'.admas = k.admas
  mvolL : k'.mvol.left.reg = k.mvol.left.reg
  mvolR : k'.mvol.right.reg = k.mvol.right.reg
  evol : k'.evol = k.evol
  avol : k'.avol = k.avol
  bvol : k'.bvol = k.bvol
  esa : k'.esa = k.esa
  eea : k'.eea = k.eea
  offs : k'.offs = k.offs
  coefs : k'.coefs = k.coefs
  dma : k'.dma = k.dma
  voices : ∀ v, (k.voice v).SameSettings (k'.voice v)

/-- The work area of core `k`'s reverb holds word `w` and the reverb may write it (44_reverb R326, R331). -/
def Core.reverbMayWrite (k : Core) (w : Nat) : Prop :=
  k.attr.getLsbD 7 = true ∧ k.esa.toNat ≤ w ∧ w < k.eea.toNat

/-- Word `w` is in a capture area of core `c` that is written (20_memory R76). -/
def CapturedWord (cfg : Config) (c : CoreId) (w : Nat) : Prop :=
  ∃ area p, cfg.captureSet.has area = true ∧ w = (captureAddr c area p).toNat

/-! ## Saturating arithmetic in closed form (00_scope R11) -/

/-- An exact integer clamped to 16 bits. -/
def saturate (z : Int) : Half := BitVec.ofInt 16 (max (-0x8000) (min 0x7FFF z))

/-- A saturating sum. -/
def plus (a b : Half) : Half := saturate (a.toInt + b.toInt)

/-- A saturating difference. -/
def minus (a b : Half) : Half := saturate (a.toInt - b.toInt)

/-- A product with a 1.15 factor: floored, then clamped. -/
def times (a b : Half) : Half := saturate (a.toInt * b.toInt / 2 ^ 15)

/-- A voice bus: over the voices of a mask in ascending order, each output times its volume level on the side, added with saturation after each voice (45_mixer R371, R372). -/
def busOf (k : Core) (mask : VoiceMask) (ch : Side) : Half :=
  (List.finRange 24).foldl
    (fun acc v =>
      if mask.getLsbD v.val = true then plus acc (times (k.voice v).out ((k.voice v).vol.get ch).level) else acc) 0

/-- The FIR of a history, the newest value first, shifted and clamped (44_reverb R322, R324, R325); tap `i` above 19 is tap `38 - i`. -/
def firOf (cfg : Config) (shift : Nat) (h : List Half) : Half :=
  saturate
    (((List.range 39).map fun i => (cfg.firHalf.toList.getD (min i (38 - i)) 0).toInt * (h.getD i 0).toInt).sum
      / 2 ^ shift)

/-! ## Observables -/

/-- A frame of the block's output. -/
def Event.isFrame : Event → Bool
  | .frame _ => true
  | _ => false

/-- One operation performed `n` times, while it completes. -/
def performTimes (i : Instr) : Nat → State → Option State
  | 0, s => some s
  | n + 1, s =>
    match exec i s with
    | .next t => performTimes i n t
    | _ => none

/-- The envelope after `n` ticks (41_envelope R226). -/
def envTicks (fracBits : Nat) (adsr1 adsr2 : Half) : Nat → Envelope → Envelope
  | 0, e => e
  | n + 1, e => envTicks fracBits adsr1 adsr2 n (envTick fracBits adsr1 adsr2 e).1

end Sys2Proof.Machine
end

