-- ==== Sys2Proof/Certificates/Slice0/Obligations.lean ====
section
/-! DEFINITION. The statements for the provers. Each docstring says what is stated; OBLIGATIONS.json names the rules. -/

open Sys2Proof Sys2Proof.Machine

/-- For every well-formed operation, with every operand at every value, decoding its encoded transaction word gives that operation. (30_encoding R100, 30_encoding R101, 30_encoding R104, 30_encoding R105, 30_encoding R106, 30_encoding R107, 30_encoding R108, 30_encoding R125) -/
def Obligations.DecodeInvertsEncode : Prop :=
  ∀ i : Instr, i.wellFormed = true → decode (encode i) = .ok i

/-- Whenever a transaction word decodes, the operation is well formed and its encoding is the word with exactly the ignored bits cleared: address bits 15..11 and 0 of a register operation, the data of a read, the address of RUN, all but a[0] of the DMA operations, and both operands of RESET. That a cleared bit is written as 0 is the model's encoder (log 16). (30_encoding R100, 30_encoding R101, 30_encoding R102, 30_encoding R135, 20_memory R71) -/
def Obligations.DecodedWordIsWellFormedAndCanonical : Prop :=
  ∀ (t : TransWord) (i : Instr), decode t = .ok i →
    i.wellFormed = true ∧
      encode i =
        t &&& (match (t.extractLsb' 32 4).toNat with
          | 0 => 0xF07FE0000#36
          | 1 => 0xF07FEFFFF#36
          | 2 => 0xF0000FFFF#36
          | 6 => 0xF00000000#36
          | _ => 0xF0001FFFF#36)

/-- The word {cmd, a, d} decodes to the operation the table of operation codes names, with a[0] as the core of the DMA operations; and a register access depends on its address only through a & 0x07FE. (30_encoding R100, 30_encoding R101, 30_encoding R102, 20_memory R71) -/
def Obligations.OperationCodesAndAddressMask : Prop :=
  ∀ a d : Half,
    decode ((0#4 ++ a) ++ d) = .ok (decodeRegister a .read) ∧
    decode ((1#4 ++ a) ++ d) = .ok (decodeRegister a (.write d)) ∧
    decode ((2#4 ++ a) ++ d) = .ok (.run d) ∧
    decode ((3#4 ++ a) ++ d) = .ok (.runDma (if a.getLsbD 0 = true then .core1 else .core0) d) ∧
    decode ((4#4 ++ a) ++ d) = .ok (.dmaWr (if a.getLsbD 0 = true then .core1 else .core0) d) ∧
    decode ((5#4 ++ a) ++ d) = .ok (.dmaRd (if a.getLsbD 0 = true then .core1 else .core0) d) ∧
    decode ((6#4 ++ a) ++ d) = .ok .reset ∧
    ∀ acc, decodeRegister a acc = decodeRegister (a &&& 0x07FE) acc

/-- An address whose masked value is c*0x400 + v*0x10 + r*2 reaches voice parameter register r of voice v of core c, and one whose masked value is c*0x400 + 0x1C0 + v*0xC + k*2 reaches voice address half k: all eight registers and all six halves, for all 48 voices. (30_encoding R104, 30_encoding R105) -/
def Obligations.VoiceRegisterAddresses : Prop :=
  ∀ (c : CoreId) (v : VoiceId) (a : Half) (acc : Access),
    let param (r : Nat) := (a &&& 0x07FE).toNat = c.num * 0x400 + v.val * 0x10 + r * 2
    let half (k : Nat) := (a &&& 0x07FE).toNat = c.num * 0x400 + 0x1C0 + v.val * 0xC + k * 2
    (param 0 → decodeRegister a acc = .voll c v acc) ∧
    (param 1 → decodeRegister a acc = .volr c v acc) ∧
    (param 2 → decodeRegister a acc = .pitch c v acc) ∧
    (param 3 → decodeRegister a acc = .adsr1 c v acc) ∧
    (param 4 → decodeRegister a acc = .adsr2 c v acc) ∧
    (param 5 → decodeRegister a acc = .envx c v acc) ∧
    (param 6 → decodeRegister a acc = .volxl c v acc) ∧
    (param 7 → decodeRegister a acc = .volxr c v acc) ∧
    (half 0 → decodeRegister a acc = .ssaH c v acc) ∧
    (half 1 → decodeRegister a acc = .ssaL c v acc) ∧
    (half 2 → decodeRegister a acc = .lsaH c v acc) ∧
    (half 3 → decodeRegister a acc = .lsaL c v acc) ∧
    (half 4 → decodeRegister a acc = .naxH c v acc) ∧
    (half 5 → decodeRegister a acc = .naxL c v acc)

/-- The decoder refuses a word exactly when its operation code is 7 or more, and a step whose next word is such a word is refused under the name that carries the code. That the refused word is met by a step at all is the model's host port (log 5, log 8). (30_encoding R126, 93_implementation_defined U3) -/
def Obligations.ReservedOperationCodesAreRefused : Prop :=
  ∀ (cmd : BitVec 4) (a d : Half),
    (7 ≤ cmd.toNat ↔ ∀ i, decode ((cmd ++ a) ++ d) ≠ .ok i) ∧
    ∀ (s : State) (supply : List Half) (rest : List Transaction), 7 ≤ cmd.toNat →
      s.pending = ⟨(cmd ++ a) ++ d, supply⟩ :: rest → step s = .refused (.reservedOperation cmd)

/-- One word of each family, written out bit by bit from the encoding tables, decodes to the operation it stands for (a sanity statement). (30_encoding R101, 30_encoding R104, 30_encoding R105, 30_encoding R106, 30_encoding R107, 30_encoding R108, 30_encoding R125) -/
def Obligations.WrittenOutWordsDecode : Prop :=
  decode 0x100002000 = .ok (.voll .core0 0 (.write 0x2000)) ∧
  decode 0x005740000 = .ok (.pitch .core1 23 .read) ∧
  decode 0x101CC0005 = .ok (.ssaH .core0 1 (.write 5)) ∧
  decode 0x101A00001 = .ok (.konL .core0 (.write 1)) ∧
  decode 0x107260F00 = .ok (.dDIFF0_L .core1 (.write 0x0F00)) ∧
  decode 0x1079C8000 = .ok (.vIIR .core1 (.write 0x8000)) ∧
  decode 0x007C20000 = .ok (.irqstat .read) ∧
  decode 0x001AC0000 = .ok (.unmapped 0x01AC .read) ∧
  decode 0x200000300 = .ok (.run 0x300) ∧
  decode 0x300010001 = .ok (.runDma .core1 1) ∧
  decode 0x400000040 = .ok (.dmaWr .core0 64) ∧
  decode 0x500010020 = .ok (.dmaRd .core1 32) ∧
  decode 0x600000000 = .ok .reset

/-- When the oldest queued word decodes to an operation, the step is that operation performed on the state in which the word is taken off the queue, its supplied words are at hand, the operation counter has moved on and the record names the operation; nothing else of the state differs. The queue, the counter and the record are the model's (log 5, log 6, log 7). (00_scope R5, 20_memory R81, 00_scope R17) -/
def Obligations.StepRunsTheDecodedOperation : Prop :=
  ∀ (s : State) (t : Transaction) (rest : List Transaction) (i : Instr),
    s.pending = t :: rest → decode t.word = .ok i →
      ∃ s', step s = exec i s' ∧ s'.pending = rest ∧ s'.supply = t.supply ∧ s'.opCount = s.opCount + 1 ∧
        s'.engine.log = .operation t.word :: s.engine.log ∧ s'.engine.ram = s.engine.ram ∧
        s'.engine.irqstat = s.engine.irqstat ∧ (∀ c, s'.core c = s.core c) ∧ s'.cfg = s.cfg ∧
        s'.spdif = s.spdif ∧ s'.runAcc = s.runAcc ∧ s'.fault = s.fault ∧ s'.extIn = s.extIn

/-- A read returns the register as written. A write stores it; with bit 15 clear the level becomes the doubled value as a signed 16-bit number and the fraction 0, with bit 15 set level and fraction stay. Only that volume unit changes. (R142) -/
def Obligations.VoiceVolumeRegisters : Prop :=
  ∀ (c : CoreId) (v : VoiceId) (d : Half) (s : State),
    Returns (.voll c v .read) s (fun x => x = (s.voice c v).vol.left.reg) ∧
    Returns (.volr c v .read) s (fun x => x = (s.voice c v).vol.right.reg) ∧
    WritesVoice (.voll c v (.write d)) c v s (fun w w' =>
      VolumeWritten d w.vol.left w'.vol.left ∧ w' = { w with vol := ⟨w'.vol.left, w.vol.right⟩ }) ∧
    WritesVoice (.volr c v (.write d)) c v s (fun w w' =>
      VolumeWritten d w.vol.right w'.vol.right ∧ w' = { w with vol := ⟨w.vol.left, w'.vol.right⟩ })

/-- Reads return what is stored; a write replaces the register, or the addressed half of SSA of which bits above 19 are dropped, and changes nothing else: not the envelope, not the cursor. (40_register_access R143, 40_register_access R144, 40_register_access R145, 40_register_access R148, 30_encoding R112) -/
def Obligations.VoiceStorageRegisters : Prop :=
  ∀ (c : CoreId) (v : VoiceId) (d : Half) (s : State),
    Returns (.pitch c v .read) s (fun x => x = (s.voice c v).pitch) ∧
    Returns (.adsr1 c v .read) s (fun x => x = (s.voice c v).adsr1) ∧
    Returns (.adsr2 c v .read) s (fun x => x = (s.voice c v).adsr2) ∧
    Returns (.ssaH c v .read) s (fun x => IsHighHalf (s.voice c v).ssa x) ∧
    Returns (.ssaL c v .read) s (fun x => IsLowHalf (s.voice c v).ssa x) ∧
    WritesVoice (.pitch c v (.write d)) c v s (fun w w' => w' = { w with pitch := d }) ∧
    WritesVoice (.adsr1 c v (.write d)) c v s (fun w w' => w' = { w with adsr1 := d }) ∧
    WritesVoice (.adsr2 c v (.write d)) c v s (fun w w' => w' = { w with adsr2 := d }) ∧
    WritesVoice (.ssaH c v (.write d)) c v s (fun w w' =>
      HighHalfWritten w.ssa d w'.ssa ∧ w' = { w with ssa := w'.ssa }) ∧
    WritesVoice (.ssaL c v (.write d)) c v s (fun w w' =>
      LowHalfWritten w.ssa d w'.ssa ∧ w' = { w with ssa := w'.ssa })

/-- Reads return the addressed half of LSA. A write of either half replaces that half, sets the custom-loop latch, and changes nothing else; while the latch is set no block header changes LSA. (R149) -/
def Obligations.VoiceLoopAddressRegisters : Prop :=
  ∀ (c : CoreId) (v : VoiceId) (d : Half) (s : State),
    Returns (.lsaH c v .read) s (fun x => IsHighHalf (s.voice c v).lsa x) ∧
    Returns (.lsaL c v .read) s (fun x => IsLowHalf (s.voice c v).lsa x) ∧
    WritesVoice (.lsaH c v (.write d)) c v s (fun w w' =>
      HighHalfWritten w.lsa d w'.lsa ∧ w' = { w with lsa := w'.lsa, customLoop := true }) ∧
    WritesVoice (.lsaL c v (.write d)) c v s (fun w w' =>
      LowHalfWritten w.lsa d w'.lsa ∧ w' = { w with lsa := w'.lsa, customLoop := true }) ∧
    ∀ (cfg : Config) (m : Memory) (k : Core), (k.voice v).customLoop = true →
      ((decodeStep cfg m v k).voice v).lsa = (k.voice v).lsa

/-- Reads return the envelope level, the two volume levels and the halves of the read cursor; writes complete and change nothing. (R146, R147, R150) -/
def Obligations.VoiceViewsAreReadOnly : Prop :=
  ∀ (c : CoreId) (v : VoiceId) (d : Half) (s : State),
    Returns (.envx c v .read) s (fun x => x = (s.voice c v).env.level) ∧
    Returns (.volxl c v .read) s (fun x => x = (s.voice c v).vol.left.level) ∧
    Returns (.volxr c v .read) s (fun x => x = (s.voice c v).vol.right.level) ∧
    Returns (.naxH c v .read) s (fun x => IsHighHalf (s.voice c v).nax x) ∧
    Returns (.naxL c v .read) s (fun x => IsLowHalf (s.voice c v).nax x) ∧
    Ignored (.envx c v (.write d)) s ∧ Ignored (.volxl c v (.write d)) s ∧
    Ignored (.volxr c v (.write d)) s ∧ Ignored (.naxH c v (.write d)) s ∧
    Ignored (.naxL c v (.write d)) s

/-- PMON, NON, VMIXL, VMIXEL, VMIXR and VMIXER: a read returns the addressed half with bits 15..8 of the high half 0, a write replaces the addressed half and changes nothing else. (40_register_access R160, 40_register_access R161, 40_register_access R162, 30_encoding R111) -/
def Obligations.VoiceMaskRegisters : Prop :=
  ∀ (c : CoreId) (d : Half) (s : State),
    Returns (.pmonL c .read) s (fun x => IsLowHalf (s.core c).pmon x) ∧
    Returns (.pmonH c .read) s (fun x => IsHighHalf (s.core c).pmon x) ∧
    WritesCore (.pmonL c (.write d)) c s (fun k k' => LowHalfWritten k.pmon d k'.pmon ∧ k' = { k with pmon := k'.pmon }) ∧
    WritesCore (.pmonH c (.write d)) c s (fun k k' => HighHalfWritten k.pmon d k'.pmon ∧ k' = { k with pmon := k'.pmon }) ∧
    Returns (.nonL c .read) s (fun x => IsLowHalf (s.core c).non x) ∧
    Returns (.nonH c .read) s (fun x => IsHighHalf (s.core c).non x) ∧
    WritesCore (.nonL c (.write d)) c s (fun k k' => LowHalfWritten k.non d k'.non ∧ k' = { k with non := k'.non }) ∧
    WritesCore (.nonH c (.write d)) c s (fun k k' => HighHalfWritten k.non d k'.non ∧ k' = { k with non := k'.non }) ∧
    Returns (.vmixlL c .read) s (fun x => IsLowHalf (s.core c).vmixl x) ∧
    Returns (.vmixlH c .read) s (fun x => IsHighHalf (s.core c).vmixl x) ∧
    WritesCore (.vmixlL c (.write d)) c s (fun k k' => LowHalfWritten k.vmixl d k'.vmixl ∧ k' = { k with vmixl := k'.vmixl }) ∧
    WritesCore (.vmixlH c (.write d)) c s (fun k k' => HighHalfWritten k.vmixl d k'.vmixl ∧ k' = { k with vmixl := k'.vmixl }) ∧
    Returns (.vmixelL c .read) s (fun x => IsLowHalf (s.core c).vmixel x) ∧
    Returns (.vmixelH c .read) s (fun x => IsHighHalf (s.core c).vmixel x) ∧
    WritesCore (.vmixelL c (.write d)) c s (fun k k' => LowHalfWritten k.vmixel d k'.vmixel ∧ k' = { k with vmixel := k'.vmixel }) ∧
    WritesCore (.vmixelH c (.write d)) c s (fun k k' => HighHalfWritten k.vmixel d k'.vmixel ∧ k' = { k with vmixel := k'.vmixel }) ∧
    Returns (.vmixrL c .read) s (fun x => IsLowHalf (s.core c).vmixr x) ∧
    Returns (.vmixrH c .read) s (fun x => IsHighHalf (s.core c).vmixr x) ∧
    WritesCore (.vmixrL c (.write d)) c s (fun k k' => LowHalfWritten k.vmixr d k'.vmixr ∧ k' = { k with vmixr := k'.vmixr }) ∧
    WritesCore (.vmixrH c (.write d)) c s (fun k k' => HighHalfWritten k.vmixr d k'.vmixr ∧ k' = { k with vmixr := k'.vmixr }) ∧
    Returns (.vmixerL c .read) s (fun x => IsLowHalf (s.core c).vmixer x) ∧
    Returns (.vmixerH c .read) s (fun x => IsHighHalf (s.core c).vmixer x) ∧
    WritesCore (.vmixerL c (.write d)) c s (fun k k' => LowHalfWritten k.vmixer d k'.vmixer ∧ k' = { k with vmixer := k'.vmixer }) ∧
    WritesCore (.vmixerH c (.write d)) c s (fun k k' => HighHalfWritten k.vmixer d k'.vmixer ∧ k' = { k with vmixer := k'.vmixer })

/-- A read returns what is stored; a write replaces that one register and changes nothing else of the core or of the state. (40_register_access R164, 40_register_access R179, 40_register_access R180) -/
def Obligations.PlainCoreRegisters : Prop :=
  ∀ (c : CoreId) (d : Half) (s : State),
    Returns (.mmix c .read) s (fun x => x = (s.core c).mmix) ∧
    WritesCore (.mmix c (.write d)) c s (fun k k' => k' = { k with mmix := d }) ∧
    Returns (.evoll c .read) s (fun x => x = (s.core c).evol.left) ∧
    WritesCore (.evoll c (.write d)) c s (fun k k' => k' = { k with evol := ⟨d, k.evol.right⟩ }) ∧
    Returns (.evolr c .read) s (fun x => x = (s.core c).evol.right) ∧
    WritesCore (.evolr c (.write d)) c s (fun k k' => k' = { k with evol := ⟨k.evol.left, d⟩ }) ∧
    Returns (.avoll c .read) s (fun x => x = (s.core c).avol.left) ∧
    WritesCore (.avoll c (.write d)) c s (fun k k' => k' = { k with avol := ⟨d, k.avol.right⟩ }) ∧
    Returns (.avolr c .read) s (fun x => x = (s.core c).avol.right) ∧
    WritesCore (.avolr c (.write d)) c s (fun k k' => k' = { k with avol := ⟨k.avol.left, d⟩ }) ∧
    Returns (.bvoll c .read) s (fun x => x = (s.core c).bvol.left) ∧
    WritesCore (.bvoll c (.write d)) c s (fun k k' => k' = { k with bvol := ⟨d, k.bvol.right⟩ }) ∧
    Returns (.bvolr c .read) s (fun x => x = (s.core c).bvol.right) ∧
    WritesCore (.bvolr c (.write d)) c s (fun k k' => k' = { k with bvol := ⟨k.bvol.left, d⟩ }) ∧
    Returns (.vIIR c .read) s (fun x => x = (s.core c).coef .vIIR) ∧
    WritesCore (.vIIR c (.write d)) c s (CoefStored .vIIR d) ∧
    Returns (.vCOMB1 c .read) s (fun x => x = (s.core c).coef .vCOMB1) ∧
    WritesCore (.vCOMB1 c (.write d)) c s (CoefStored .vCOMB1 d) ∧
    Returns (.vCOMB2 c .read) s (fun x => x = (s.core c).coef .vCOMB2) ∧
    WritesCore (.vCOMB2 c (.write d)) c s (CoefStored .vCOMB2 d) ∧
    Returns (.vCOMB3 c .read) s (fun x => x = (s.core c).coef .vCOMB3) ∧
    WritesCore (.vCOMB3 c (.write d)) c s (CoefStored .vCOMB3 d) ∧
    Returns (.vCOMB4 c .read) s (fun x => x = (s.core c).coef .vCOMB4) ∧
    WritesCore (.vCOMB4 c (.write d)) c s (CoefStored .vCOMB4 d) ∧
    Returns (.vWALL c .read) s (fun x => x = (s.core c).coef .vWALL) ∧
    WritesCore (.vWALL c (.write d)) c s (CoefStored .vWALL d) ∧
    Returns (.vAPF1 c .read) s (fun x => x = (s.core c).coef .vAPF1) ∧
    WritesCore (.vAPF1 c (.write d)) c s (CoefStored .vAPF1 d) ∧
    Returns (.vAPF2 c .read) s (fun x => x = (s.core c).coef .vAPF2) ∧
    WritesCore (.vAPF2 c (.write d)) c s (CoefStored .vAPF2 d) ∧
    Returns (.vIN0 c .read) s (fun x => x = (s.core c).coef .vIN0) ∧
    WritesCore (.vIN0 c (.write d)) c s (CoefStored .vIN0 d) ∧
    Returns (.vIN1 c .read) s (fun x => x = (s.core c).coef .vIN1) ∧
    WritesCore (.vIN1 c (.write d)) c s (CoefStored .vIN1 d)

/-- A read returns ATTR. A write stores it, leaves the cause bit of the core as it was if bit 6 of the data is set and clears it otherwise; it leaves the other cause bit, the half bit, the RAM, the record and everything else alone, so it raises no interrupt. (40_register_access R166, 60_exceptions R445) -/
def Obligations.AttributeRegister : Prop :=
  ∀ (c : CoreId) (d : Half) (s : State),
    Returns (.attr c .read) s (fun x => x = (s.core c).attr) ∧
    ∃ t, exec (.attr c (.write d)) s = .next t ∧ SameOutsideEngine s t ∧ SameRam s t ∧
      t.engine.log = s.engine.log ∧ (∀ c', c' ≠ c → t.core c' = s.core c') ∧
      t.core c = { s.core c with attr := d } ∧
      t.engine.irqstat.cause c = (d.getLsbD 6 && s.engine.irqstat.cause c) ∧
      (∀ c', c' ≠ c → t.engine.irqstat.cause c' = s.engine.irqstat.cause c') ∧
      t.engine.irqstat.half = s.engine.irqstat.half

/-- For IRQA, ESA, EEA and each of the 22 offsets: a read returns the addressed half with bits 15..4 of the high half 0; a write replaces that half of that one register and changes nothing else: it does not move the reverb cursor, and compares no address. (40_register_access R167, 40_register_access R172, 30_encoding R112, 30_encoding R125) -/
def Obligations.CoreAddressRegisters : Prop :=
  ∀ (c : CoreId) (d : Half) (s : State),
    Returns (.irqaH c .read) s (fun x => IsHighHalf (s.core c).irqa x) ∧
    Returns (.irqaL c .read) s (fun x => IsLowHalf (s.core c).irqa x) ∧
    WritesCore (.irqaH c (.write d)) c s (fun k k' => HighHalfWritten k.irqa d k'.irqa ∧ k' = { k with irqa := k'.irqa }) ∧
    WritesCore (.irqaL c (.write d)) c s (fun k k' => LowHalfWritten k.irqa d k'.irqa ∧ k' = { k with irqa := k'.irqa }) ∧
    Returns (.esaH c .read) s (fun x => IsHighHalf (s.core c).esa x) ∧
    Returns (.esaL c .read) s (fun x => IsLowHalf (s.core c).esa x) ∧
    WritesCore (.esaH c (.write d)) c s (fun k k' => HighHalfWritten k.esa d k'.esa ∧ k' = { k with esa := k'.esa }) ∧
    WritesCore (.esaL c (.write d)) c s (fun k k' => LowHalfWritten k.esa d k'.esa ∧ k' = { k with esa := k'.esa }) ∧
    Returns (.eeaH c .read) s (fun x => IsHighHalf (s.core c).eea x) ∧
    Returns (.eeaL c .read) s (fun x => IsLowHalf (s.core c).eea x) ∧
    WritesCore (.eeaH c (.write d)) c s (fun k k' => HighHalfWritten k.eea d k'.eea ∧ k' = { k with eea := k'.eea }) ∧
    WritesCore (.eeaL c (.write d)) c s (fun k k' => LowHalfWritten k.eea d k'.eea ∧ k' = { k with eea := k'.eea }) ∧
    Returns (.dAPF0_H c .read) s (fun x => IsHighHalf ((s.core c).off .dAPF .left) x) ∧
    Returns (.dAPF0_L c .read) s (fun x => IsLowHalf ((s.core c).off .dAPF .left) x) ∧
    WritesCore (.dAPF0_H c (.write d)) c s (OffsetChanged .dAPF .left fun x y => HighHalfWritten x d y) ∧
    WritesCore (.dAPF0_L c (.write d)) c s (OffsetChanged .dAPF .left fun x y => LowHalfWritten x d y) ∧
    Returns (.dAPF1_H c .read) s (fun x => IsHighHalf ((s.core c).off .dAPF .right) x) ∧
    Returns (.dAPF1_L c .read) s (fun x => IsLowHalf ((s.core c).off .dAPF .right) x) ∧
    WritesCore (.dAPF1_H c (.write d)) c s (OffsetChanged .dAPF .right fun x y => HighHalfWritten x d y) ∧
    WritesCore (.dAPF1_L c (.write d)) c s (OffsetChanged .dAPF .right fun x y => LowHalfWritten x d y) ∧
    Returns (.mSAME0_H c .read) s (fun x => IsHighHalf ((s.core c).off .mSAME .left) x) ∧
    Returns (.mSAME0_L c .read) s (fun x => IsLowHalf ((s.core c).off .mSAME .left) x) ∧
    WritesCore (.mSAME0_H c (.write d)) c s (OffsetChanged .mSAME .left fun x y => HighHalfWritten x d y) ∧
    WritesCore (.mSAME0_L c (.write d)) c s (OffsetChanged .mSAME .left fun x y => LowHalfWritten x d y) ∧
    Returns (.mSAME1_H c .read) s (fun x => IsHighHalf ((s.core c).off .mSAME .right) x) ∧
    Returns (.mSAME1_L c .read) s (fun x => IsLowHalf ((s.core c).off .mSAME .right) x) ∧
    WritesCore (.mSAME1_H c (.write d)) c s (OffsetChanged .mSAME .right fun x y => HighHalfWritten x d y) ∧
    WritesCore (.mSAME1_L c (.write d)) c s (OffsetChanged .mSAME .right fun x y => LowHalfWritten x d y) ∧
    Returns (.mCOMB1_0_H c .read) s (fun x => IsHighHalf ((s.core c).off .mCOMB1 .left) x) ∧
    Returns (.mCOMB1_0_L c .read) s (fun x => IsLowHalf ((s.core c).off .mCOMB1 .left) x) ∧
    WritesCore (.mCOMB1_0_H c (.write d)) c s (OffsetChanged .mCOMB1 .left fun x y => HighHalfWritten x d y) ∧
    WritesCore (.mCOMB1_0_L c (.write d)) c s (OffsetChanged .mCOMB1 .left fun x y => LowHalfWritten x d y) ∧
    Returns (.mCOMB1_1_H c .read) s (fun x => IsHighHalf ((s.core c).off .mCOMB1 .right) x) ∧
    Returns (.mCOMB1_1_L c .read) s (fun x => IsLowHalf ((s.core c).off .mCOMB1 .right) x) ∧
    WritesCore (.mCOMB1_1_H c (.write d)) c s (OffsetChanged .mCOMB1 .right fun x y => HighHalfWritten x d y) ∧
    WritesCore (.mCOMB1_1_L c (.write d)) c s (OffsetChanged .mCOMB1 .right fun x y => LowHalfWritten x d y) ∧
    Returns (.mCOMB2_0_H c .read) s (fun x => IsHighHalf ((s.core c).off .mCOMB2 .left) x) ∧
    Returns (.mCOMB2_0_L c .read) s (fun x => IsLowHalf ((s.core c).off .mCOMB2 .left) x) ∧
    WritesCore (.mCOMB2_0_H c (.write d)) c s (OffsetChanged .mCOMB2 .left fun x y => HighHalfWritten x d y) ∧
    WritesCore (.mCOMB2_0_L c (.write d)) c s (OffsetChanged .mCOMB2 .left fun x y => LowHalfWritten x d y) ∧
    Returns (.mCOMB2_1_H c .read) s (fun x => IsHighHalf ((s.core c).off .mCOMB2 .right) x) ∧
    Returns (.mCOMB2_1_L c .read) s (fun x => IsLowHalf ((s.core c).off .mCOMB2 .right) x) ∧
    WritesCore (.mCOMB2_1_H c (.write d)) c s (OffsetChanged .mCOMB2 .right fun x y => HighHalfWritten x d y) ∧
    WritesCore (.mCOMB2_1_L c (.write d)) c s (OffsetChanged .mCOMB2 .right fun x y => LowHalfWritten x d y) ∧
    Returns (.dSAME0_H c .read) s (fun x => IsHighHalf ((s.core c).off .dSAME .left) x) ∧
    Returns (.dSAME0_L c .read) s (fun x => IsLowHalf ((s.core c).off .dSAME .left) x) ∧
    WritesCore (.dSAME0_H c (.write d)) c s (OffsetChanged .dSAME .left fun x y => HighHalfWritten x d y) ∧
    WritesCore (.dSAME0_L c (.write d)) c s (OffsetChanged .dSAME .left fun x y => LowHalfWritten x d y) ∧
    Returns (.dSAME1_H c .read) s (fun x => IsHighHalf ((s.core c).off .dSAME .right) x) ∧
    Returns (.dSAME1_L c .read) s (fun x => IsLowHalf ((s.core c).off .dSAME .right) x) ∧
    WritesCore (.dSAME1_H c (.write d)) c s (OffsetChanged .dSAME .right fun x y => HighHalfWritten x d y) ∧
    WritesCore (.dSAME1_L c (.write d)) c s (OffsetChanged .dSAME .right fun x y => LowHalfWritten x d y) ∧
    Returns (.mDIFF0_H c .read) s (fun x => IsHighHalf ((s.core c).off .mDIFF .left) x) ∧
    Returns (.mDIFF0_L c .read) s (fun x => IsLowHalf ((s.core c).off .mDIFF .left) x) ∧
    WritesCore (.mDIFF0_H c (.write d)) c s (OffsetChanged .mDIFF .left fun x y => HighHalfWritten x d y) ∧
    WritesCore (.mDIFF0_L c (.write d)) c s (OffsetChanged .mDIFF .left fun x y => LowHalfWritten x d y) ∧
    Returns (.mDIFF1_H c .read) s (fun x => IsHighHalf ((s.core c).off .mDIFF .right) x) ∧
    Returns (.mDIFF1_L c .read) s (fun x => IsLowHalf ((s.core c).off .mDIFF .right) x) ∧
    WritesCore (.mDIFF1_H c (.write d)) c s (OffsetChanged .mDIFF .right fun x y => HighHalfWritten x d y) ∧
    WritesCore (.mDIFF1_L c (.write d)) c s (OffsetChanged .mDIFF .right fun x y => LowHalfWritten x d y) ∧
    Returns (.mCOMB3_0_H c .read) s (fun x => IsHighHalf ((s.core c).off .mCOMB3 .left) x) ∧
    Returns (.mCOMB3_0_L c .read) s (fun x => IsLowHalf ((s.core c).off .mCOMB3 .left) x) ∧
    WritesCore (.mCOMB3_0_H c (.write d)) c s (OffsetChanged .mCOMB3 .left fun x y => HighHalfWritten x d y) ∧
    WritesCore (.mCOMB3_0_L c (.write d)) c s (OffsetChanged .mCOMB3 .left fun x y => LowHalfWritten x d y) ∧
    Returns (.mCOMB3_1_H c .read) s (fun x => IsHighHalf ((s.core c).off .mCOMB3 .right) x) ∧
    Returns (.mCOMB3_1_L c .read) s (fun x => IsLowHalf ((s.core c).off .mCOMB3 .right) x) ∧
    WritesCore (.mCOMB3_1_H c (.write d)) c s (OffsetChanged .mCOMB3 .right fun x y => HighHalfWritten x d y) ∧
    WritesCore (.mCOMB3_1_L c (.write d)) c s (OffsetChanged .mCOMB3 .right fun x y => LowHalfWritten x d y) ∧
    Returns (.mCOMB4_0_H c .read) s (fun x => IsHighHalf ((s.core c).off .mCOMB4 .left) x) ∧
    Returns (.mCOMB4_0_L c .read) s (fun x => IsLowHalf ((s.core c).off .mCOMB4 .left) x) ∧
    WritesCore (.mCOMB4_0_H c (.write d)) c s (OffsetChanged .mCOMB4 .left fun x y => HighHalfWritten x d y) ∧
    WritesCore (.mCOMB4_0_L c (.write d)) c s (OffsetChanged .mCOMB4 .left fun x y => LowHalfWritten x d y) ∧
    Returns (.mCOMB4_1_H c .read) s (fun x => IsHighHalf ((s.core c).off .mCOMB4 .right) x) ∧
    Returns (.mCOMB4_1_L c .read) s (fun x => IsLowHalf ((s.core c).off .mCOMB4 .right) x) ∧
    WritesCore (.mCOMB4_1_H c (.write d)) c s (OffsetChanged .mCOMB4 .right fun x y => HighHalfWritten x d y) ∧
    WritesCore (.mCOMB4_1_L c (.write d)) c s (OffsetChanged .mCOMB4 .right fun x y => LowHalfWritten x d y) ∧
    Returns (.dDIFF0_H c .read) s (fun x => IsHighHalf ((s.core c).off .dDIFF .left) x) ∧
    Returns (.dDIFF0_L c .read) s (fun x => IsLowHalf ((s.core c).off .dDIFF .left) x) ∧
    WritesCore (.dDIFF0_H c (.write d)) c s (OffsetChanged .dDIFF .left fun x y => HighHalfWritten x d y) ∧
    WritesCore (.dDIFF0_L c (.write d)) c s (OffsetChanged .dDIFF .left fun x y => LowHalfWritten x d y) ∧
    Returns (.dDIFF1_H c .read) s (fun x => IsHighHalf ((s.core c).off .dDIFF .right) x) ∧
    Returns (.dDIFF1_L c .read) s (fun x => IsLowHalf ((s.core c).off .dDIFF .right) x) ∧
    WritesCore (.dDIFF1_H c (.write d)) c s (OffsetChanged .dDIFF .right fun x y => HighHalfWritten x d y) ∧
    WritesCore (.dDIFF1_L c (.write d)) c s (OffsetChanged .dDIFF .right fun x y => LowHalfWritten x d y) ∧
    Returns (.mAPF1_0_H c .read) s (fun x => IsHighHalf ((s.core c).off .mAPF1 .left) x) ∧
    Returns (.mAPF1_0_L c .read) s (fun x => IsLowHalf ((s.core c).off .mAPF1 .left) x) ∧
    WritesCore (.mAPF1_0_H c (.write d)) c s (OffsetChanged .mAPF1 .left fun x y => HighHalfWritten x d y) ∧
    WritesCore (.mAPF1_0_L c (.write d)) c s (OffsetChanged .mAPF1 .left fun x y => LowHalfWritten x d y) ∧
    Returns (.mAPF1_1_H c .read) s (fun x => IsHighHalf ((s.core c).off .mAPF1 .right) x) ∧
    Returns (.mAPF1_1_L c .read) s (fun x => IsLowHalf ((s.core c).off .mAPF1 .right) x) ∧
    WritesCore (.mAPF1_1_H c (.write d)) c s (OffsetChanged .mAPF1 .right fun x y => HighHalfWritten x d y) ∧
    WritesCore (.mAPF1_1_L c (.write d)) c s (OffsetChanged .mAPF1 .right fun x y => LowHalfWritten x d y) ∧
    Returns (.mAPF2_0_H c .read) s (fun x => IsHighHalf ((s.core c).off .mAPF2 .left) x) ∧
    Returns (.mAPF2_0_L c .read) s (fun x => IsLowHalf ((s.core c).off .mAPF2 .left) x) ∧
    WritesCore (.mAPF2_0_H c (.write d)) c s (OffsetChanged .mAPF2 .left fun x y => HighHalfWritten x d y) ∧
    WritesCore (.mAPF2_0_L c (.write d)) c s (OffsetChanged .mAPF2 .left fun x y => LowHalfWritten x d y) ∧
    Returns (.mAPF2_1_H c .read) s (fun x => IsHighHalf ((s.core c).off .mAPF2 .right) x) ∧
    Returns (.mAPF2_1_L c .read) s (fun x => IsLowHalf ((s.core c).off .mAPF2 .right) x) ∧
    WritesCore (.mAPF2_1_H c (.write d)) c s (OffsetChanged .mAPF2 .right fun x y => HighHalfWritten x d y) ∧
    WritesCore (.mAPF2_1_L c (.write d)) c s (OffsetChanged .mAPF2 .right fun x y => LowHalfWritten x d y)

/-- A write sets the bits of the addressed half that the data sets and keeps every bit already pending; a read returns the pending bits. Nothing else changes: no voice, no ENDX flag. (40_register_access R168, 40_register_access R169, 42_adpcm R277) -/
def Obligations.KeyEventRegisters : Prop :=
  ∀ (c : CoreId) (d : Half) (s : State),
    Returns (.konL c .read) s (fun x => IsLowHalf (s.core c).kon x) ∧
    Returns (.konH c .read) s (fun x => IsHighHalf (s.core c).kon x) ∧
    Returns (.koffL c .read) s (fun x => IsLowHalf (s.core c).koff x) ∧
    Returns (.koffH c .read) s (fun x => IsHighHalf (s.core c).koff x) ∧
    WritesCore (.konL c (.write d)) c s (fun k k' => k' = { k with kon := k'.kon } ∧
      ∀ v, v < 24 → k'.kon.getLsbD v = (k.kon.getLsbD v || decide (v < 16) && d.getLsbD v)) ∧
    WritesCore (.konH c (.write d)) c s (fun k k' => k' = { k with kon := k'.kon } ∧
      ∀ v, v < 24 → k'.kon.getLsbD v = (k.kon.getLsbD v || decide (16 ≤ v) && d.getLsbD (v - 16))) ∧
    WritesCore (.koffL c (.write d)) c s (fun k k' => k' = { k with koff := k'.koff } ∧
      ∀ v, v < 24 → k'.koff.getLsbD v = (k.koff.getLsbD v || decide (v < 16) && d.getLsbD v)) ∧
    WritesCore (.koffH c (.write d)) c s (fun k k' => k' = { k with koff := k'.koff } ∧
      ∀ v, v < 24 → k'.koff.getLsbD v = (k.koff.getLsbD v || decide (16 ≤ v) && d.getLsbD (v - 16)))

/-- A read returns the addressed half of TSA, not of the cursor. A write replaces that half of TSA and loads TADDR with the new TSA; it changes nothing else, so during a transfer it moves the cursor of the transfer in progress. (R170) -/
def Obligations.TransferAddressRegister : Prop :=
  ∀ (c : CoreId) (d : Half) (s : State),
    Returns (.tsaH c .read) s (fun x => IsHighHalf (s.core c).tsa x) ∧
    Returns (.tsaL c .read) s (fun x => IsLowHalf (s.core c).tsa x) ∧
    WritesCore (.tsaH c (.write d)) c s (fun k k' =>
      HighHalfWritten k.tsa d k'.tsa ∧ k' = { k with tsa := k'.tsa, taddr := k'.tsa }) ∧
    WritesCore (.tsaL c (.write d)) c s (fun k k' =>
      LowHalfWritten k.tsa d k'.tsa ∧ k' = { k with tsa := k'.tsa, taddr := k'.tsa })

/-- A read returns ADMAS. A write stores all 16 bits; when bit c of core c's register is written 0 the sequence counter and the remembered refill are cleared, when it is written 1 they stay; nothing else changes. (40_register_access R171, 46_dma R415) -/
def Obligations.AutoDmaControlRegister : Prop :=
  ∀ (c : CoreId) (d : Half) (s : State),
    Returns (.admas c .read) s (fun x => x = (s.core c).admas) ∧
    WritesCore (.admas c (.write d)) c s (fun k k' =>
      k' = { k with
        admas := d
        adma := if d.getLsbD c.num = true then k.adma else { k.adma with left := 0, pending := false } })

/-- A read of ENDX returns the addressed half; a write of any value to either half clears all 24 flags and nothing else. STATX reads 0x0080 when the core's remaining DMA size is 0 and 0 otherwise, and ignores writes. (R173, R174) -/
def Obligations.EndFlagsAndDmaStatus : Prop :=
  ∀ (c : CoreId) (d : Half) (s : State),
    Returns (.endxL c .read) s (fun x => IsLowHalf (s.core c).endx x) ∧
    Returns (.endxH c .read) s (fun x => IsHighHalf (s.core c).endx x) ∧
    WritesCore (.endxL c (.write d)) c s (fun k k' => k' = { k with endx := 0 }) ∧
    WritesCore (.endxH c (.write d)) c s (fun k k' => k' = { k with endx := 0 }) ∧
    Returns (.statx c .read) s (fun x => x = if (s.core c).dma.size = 0 then 0x0080 else 0x0000) ∧
    Ignored (.statx c (.write d)) s

/-- Reads of MVOL return the register as written, reads of MVOLX the level. A write of MVOL stores it and loads the doubled level if bit 15 is clear; a write of MVOLX changes nothing. Only that volume unit changes. (40_register_access R177, 40_register_access R178) -/
def Obligations.MasterVolumeRegisters : Prop :=
  ∀ (c : CoreId) (d : Half) (s : State),
    Returns (.mvoll c .read) s (fun x => x = (s.core c).mvol.left.reg) ∧
    Returns (.mvolr c .read) s (fun x => x = (s.core c).mvol.right.reg) ∧
    WritesCore (.mvoll c (.write d)) c s (fun k k' =>
      VolumeWritten d k.mvol.left k'.mvol.left ∧ k' = { k with mvol := ⟨k'.mvol.left, k.mvol.right⟩ }) ∧
    WritesCore (.mvolr c (.write d)) c s (fun k k' =>
      VolumeWritten d k.mvol.right k'.mvol.right ∧ k' = { k with mvol := ⟨k.mvol.left, k'.mvol.right⟩ }) ∧
    Returns (.mvolxl c .read) s (fun x => x = (s.core c).mvol.left.level) ∧
    Returns (.mvolxr c .read) s (fun x => x = (s.core c).mvol.right.level) ∧
    Ignored (.mvolxl c (.write d)) s ∧ Ignored (.mvolxr c (.write d)) s

/-- IRQSTAT reads the two cause bits in bits 2 and 3, the half bit in bit 4 and 0 elsewhere, clears nothing, and ignores writes. Each SPDIF register reads back what was written, and a write changes nothing else. (R181, R182) -/
def Obligations.InterruptStatusAndSpdif : Prop :=
  ∀ (d : Half) (s : State),
    Returns (.irqstat .read) s (fun x => ∀ i, i < 16 → x.getLsbD i =
      (decide (i = 2) && s.engine.irqstat.cause .core0 || decide (i = 3) && s.engine.irqstat.cause .core1 ||
        decide (i = 4) && s.engine.irqstat.half)) ∧
    Ignored (.irqstat (.write d)) s ∧
    Returns (.spdifOut .read) s (fun x => x = s.spdif.out) ∧
    Returns (.spdifMode .read) s (fun x => x = s.spdif.mode) ∧
    Returns (.spdifMedia .read) s (fun x => x = s.spdif.media) ∧
    (∃ t, exec (.spdifOut (.write d)) s = .next t ∧ t.spdif = { s.spdif with out := d } ∧
      SameState s { t with spdif := s.spdif }) ∧
    (∃ t, exec (.spdifMode (.write d)) s = .next t ∧ t.spdif = { s.spdif with mode := d } ∧
      SameState s { t with spdif := s.spdif }) ∧
    (∃ t, exec (.spdifMedia (.write d)) s = .next t ∧ t.spdif = { s.spdif with media := d } ∧
      SameState s { t with spdif := s.spdif })

/-- With BUILD = release a read returns 0, a write does nothing, and both record the address and the direction in the sticky diagnostics and change nothing else. With BUILD = debug the model stops with the fault that names the register. (R183, R447) -/
def Obligations.UnmappedRegisterAccess : Prop :=
  ∀ (ra d : Half) (s : State),
    (s.cfg.build = .release →
      (∃ t, exec (.unmapped ra .read) s = .next t ∧ t.fault = { s.fault with unmapped := some ⟨ra, false⟩ } ∧
        t.engine.log = .readData 0 :: s.engine.log ∧
        SameState s ({ t with fault := s.fault, engine := { t.engine with log := s.engine.log } })) ∧
      (∃ t, exec (.unmapped ra (.write d)) s = .next t ∧
        t.fault = { s.fault with unmapped := some ⟨ra, true⟩ } ∧ SameState s { t with fault := s.fault })) ∧
    (s.cfg.build = .debug →
      exec (.unmapped ra .read) s = .fault (.unmappedRegister ra false) ∧
      exec (.unmapped ra (.write d)) s = .fault (.unmappedRegister ra true))

/-- For every address and value of a register write but those of KON and KOFF: if the write completes, the same write in the state it leaves completes and leaves that state as it is. (20_memory R79) -/
def Obligations.RegisterWritesAreIdempotent : Prop :=
  ∀ (a d : Half) (s t : State),
    (∀ c, decodeRegister a (.write d) ≠ .konL c (.write d) ∧ decodeRegister a (.write d) ≠ .konH c (.write d) ∧
      decodeRegister a (.write d) ≠ .koffL c (.write d) ∧ decodeRegister a (.write d) ≠ .koffH c (.write d)) →
    exec (decodeRegister a (.write d)) s = .next t → exec (decodeRegister a (.write d)) t = .next t

/-- Whatever the address: a register access that completes leaves every byte of RAM and the half bit alone, raises no signal, and touches the diagnostics only if no register is mapped there. A write records nothing; a read records the value it returns and leaves both cores, the cause bits, the SPDIF registers and the clock accumulator as they were. (40_register_access R141, 20_memory R79, 60_exceptions R449) -/
def Obligations.RegisterAccessesRaiseNoSignal : Prop :=
  ∀ (a : Half) (s t : State),
    (∀ d, exec (decodeRegister a (.write d)) s = .next t →
      SameRam s t ∧ t.engine.irqstat.half = s.engine.irqstat.half ∧ t.engine.log = s.engine.log ∧
      ((registerAt (a &&& 0x07FE).toNat (.write d)).isSome = true → t.fault = s.fault)) ∧
    (exec (decodeRegister a .read) s = .next t →
      SameRam s t ∧ t.engine.irqstat = s.engine.irqstat ∧ (∀ c, t.core c = s.core c) ∧
      t.spdif = s.spdif ∧ t.runAcc = s.runAcc ∧
      (∃ d, t.engine.log = .readData d :: s.engine.log) ∧
      ((registerAt (a &&& 0x07FE).toNat .read).isSome = true → t.fault = s.fault))

/-- For every operation and every state the operation answers a next state, except that an access to an unmapped register with BUILD = debug is a fault; no operation is ever refused. (R440) -/
def Obligations.EveryOperationCompletes : Prop :=
  ∀ (i : Instr) (s : State),
    (∃ t, exec i s = .next t) ∨
      (s.cfg.build = .debug ∧ ∃ ra acc w, i = .unmapped ra acc ∧ exec i s = .fault (.unmappedRegister ra w))

/-- Every operation that completes leaves the open parameters, the queued operations, the supplied words and the operation counter as they were, and everything observed before it stays in the record. These fields are the model's own (log 1, log 5, log 6, log 7). (00_scope R7, 00_scope R17, 20_memory R81) -/
def Obligations.OperationsLeaveTheHostSideAlone : Prop :=
  ∀ (i : Instr) (s t : State), exec i s = .next t →
    t.cfg = s.cfg ∧ t.pending = s.pending ∧ t.supply = s.supply ∧ t.opCount = s.opCount ∧
      ∃ new, t.engine.log = new ++ s.engine.log

/-- For every rate with a shift below 32, every level and every fraction below 2^F with F at least 22: the step is the exact sum of level, fraction and scaled step, clamped, with no bit lost; the resulting level is within 0..0x7FFF and the fraction below 2^F. (R223, R225) -/
def Obligations.EnvelopeStepFormula : Prop :=
  ∀ (F shift : Nat) (stepBase : Int) (exp dec : Bool) (level : Half) (frac : Nat),
    22 ≤ F → shift < 32 → frac < 2 ^ F →
    let se := shift + if exp = true ∧ dec = false ∧ 0x6000 < level.toInt then 2 else 0
    let s0 := stepBase * 2 ^ (11 - se)
    let st := if exp = true ∧ dec = true then (s0 * level.toInt) / 2 ^ 15 else s0
    let fp := max 0 (min (level.toInt * 2 ^ F + frac + st * 2 ^ (F - (se - 11))) (0x7FFF * 2 ^ F))
    let r := envStep F ⟨shift, stepBase, exp, dec⟩ level frac
    se - 11 ≤ F ∧ r.1.toInt = fp / 2 ^ F ∧ (r.2 : Int) = fp % 2 ^ F ∧
      0 ≤ r.1.toInt ∧ r.1.toInt ≤ 0x7FFF ∧ r.2 < 2 ^ F

/-- All cases of the tick: Stopped stays; Attack at or above 0x7FFF goes to Decay, Decay at or below the sustain threshold to Sustain, Release at 0 to Stopped with fraction 0; otherwise the level moves by one step with the shift, step base, mode and direction of the phase taken from the register bits. The voice is reported inactive exactly when the phase is Stopped after the tick. (R221, R226) -/
def Obligations.EnvelopeTickPhases : Prop :=
  ∀ (F : Nat) (a1 a2 : Half) (e : Envelope),
    let moved (r : Rate) : Envelope × Bool :=
      (⟨e.phase, (envStep F r e.level e.frac).1, (envStep F r e.level e.frac).2⟩, true)
    let field (a : Half) (lo len : Nat) : Nat := (a.extractLsb' lo len).toNat
    (e.phase = .stopped → envTick F a1 a2 e = (e, false)) ∧
    (e.phase = .attack → envTick F a1 a2 e =
      if 0x7FFF ≤ e.level.toInt then (⟨.decay, e.level, e.frac⟩, true)
      else moved ⟨field a1 10 5, 7 - field a1 8 2, a1.getLsbD 15, false⟩) ∧
    (e.phase = .decay → envTick F a1 a2 e =
      if e.level.toInt / 2 ^ 11 ≤ field a1 0 4 then (⟨.sustain, e.level, e.frac⟩, true)
      else moved ⟨field a1 4 4, -8, true, true⟩) ∧
    (e.phase = .sustain → envTick F a1 a2 e =
      moved ⟨field a2 8 5, if a2.getLsbD 14 = true then -8 + field a2 6 2 else 7 - field a2 6 2,
        a2.getLsbD 15, a2.getLsbD 14⟩) ∧
    (e.phase = .release → envTick F a1 a2 e =
      if e.level = 0 then (⟨.stopped, e.level, 0⟩, false)
      else moved ⟨field a2 0 5, -8, a2.getLsbD 5, true⟩)

/-- For every envelope in Attack, every register value and F at least 22: the level after the tick is at least the level before it, the phase becomes Attack or Decay, and if it becomes Decay the level is unchanged. (41_envelope R235) -/
def Obligations.AttackNeverFalls : Prop :=
  ∀ (F : Nat) (a1 a2 : Half) (e : Envelope), 22 ≤ F → e.phase = .attack → e.frac < 2 ^ F →
    e.level.toInt ≤ (envTick F a1 a2 e).1.level.toInt ∧
    ((envTick F a1 a2 e).1.phase = .attack ∨
      (envTick F a1 a2 e).1.phase = .decay ∧ (envTick F a1 a2 e).1.level = e.level)

/-- From an envelope in Release with a level of at least 0 and a fraction below 2^F, F at least 22: after the bound of ticks of the rule (linear: ceil(level*2^cs/8) for shifts of at least 11, ceil(level/(8<<(11-shift))) below; exponential: level*2^cs + frac) and one further tick, the phase is Stopped with level 0. (41_envelope R235) -/
def Obligations.ReleaseEndsInBoundedTime : Prop :=
  ∀ (F : Nat) (a1 a2 : Half) (e : Envelope),
    22 ≤ F → e.phase = .release → 0 ≤ e.level.toInt → e.frac < 2 ^ F →
    let shift := (a2.extractLsb' 0 5).toNat
    let level := e.level.toNat
    let bound :=
      if a2.getLsbD 5 = true then level * 2 ^ (shift - 11) + e.frac
      else if 11 ≤ shift then (level * 2 ^ (shift - 11) + 7) / 8
      else (level + 8 * 2 ^ (11 - shift) - 1) / (8 * 2 ^ (11 - shift))
    (envTicks F a1 a2 (bound + 1) e).phase = .stopped ∧ (envTicks F a1 a2 (bound + 1) e).level = 0

/-- With bit 15 of the register clear the tick changes nothing. With it set, level and fraction take one envelope step with shift bits 6..2, step bits 1..0, mode bit 14 and direction bit 13, the level lands within 0..0x7FFF, and the register stays. From a negative level the step is added before the clamp, as the pseudocode has it and the prose of R240 has not: the model's choice (log 23). (41_envelope R240, 30_encoding R118) -/
def Obligations.VolumeSweepTick : Prop :=
  ∀ (F : Nat) (u : VolUnit),
    (u.reg.getLsbD 15 = false → volTick F u = u) ∧
    (u.reg.getLsbD 15 = true →
      let st : Int := (u.reg.extractLsb' 0 2).toNat
      let r : Rate := ⟨(u.reg.extractLsb' 2 5).toNat, if u.reg.getLsbD 13 = true then -8 + st else 7 - st,
        u.reg.getLsbD 14, u.reg.getLsbD 13⟩
      volTick F u = ⟨u.reg, (envStep F r u.level u.frac).1, (envStep F r u.level u.frac).2⟩ ∧
        0 ≤ (volTick F u).level.toInt ∧ (volTick F u).level.toInt ≤ 0x7FFF)

/-- With 16 or more samples buffered the step changes nothing at all; with fewer it appends exactly four samples at the back of the voice's queue, keeps those waiting, and leaves every other voice alone. So the queue holds 4 to 19 samples after a step that starts with at most 19. (42_adpcm R261, 42_adpcm R263) -/
def Obligations.DecodingIsLazyAndBounded : Prop :=
  ∀ (cfg : Config) (m : Memory) (v : VoiceId) (k : Core),
    (16 ≤ (k.voice v).buf.length → decodeStep cfg m v k = k) ∧
    ((k.voice v).buf.length < 16 →
      ∃ x0 x1 x2 x3, ((decodeStep cfg m v k).voice v).buf = (k.voice v).buf ++ [x0, x1, x2, x3]) ∧
    (∀ v', v' ≠ v → (decodeStep cfg m v k).voice v' = k.voice v') ∧
    ((k.voice v).buf.length ≤ 19 →
      4 ≤ ((decodeStep cfg m v k).voice v).buf.length ∧ ((decodeStep cfg m v k).voice v).buf.length ≤ 19)

/-- A step that runs reads a header exactly at a multiple of 8 and captures LSA there if LoopStart is set and the latch is clear; it moves the cursor on by one or two words modulo 2^20; at the end of a block with LoopEnd it redirects the cursor to LSA, sets the voice's ENDX flag, and stops the envelope unless LoopRepeat or the voice's noise bit is set. A Stopped voice pushes four zeros and keeps its history; any other voice decodes the data word. Nothing else of the core changes. (R261, R268, R270) -/
def Obligations.DecodeStepControl : Prop :=
  ∀ (cfg : Config) (m : Memory) (v : VoiceId) (k : Core), (k.voice v).buf.length < 16 →
    let w := k.voice v
    let k' := decodeStep cfg m v k
    let w' := k'.voice v
    let boundary := w.nax.toNat % 8 = 0
    let hdr := if boundary then ramRead m w.nax else w.hdr
    let lsa := if boundary ∧ hdr.getLsbD 10 = true ∧ w.customLoop = false then w.nax else w.lsa
    let data := if boundary then w.nax + 1 else w.nax
    let looped := (data + 1).toNat % 8 = 0 ∧ hdr.getLsbD 8 = true
    w'.hdr = hdr ∧ w'.lsa = lsa ∧ w'.nax = (if looped then lsa else data + 1) ∧
    w'.env = (if looped ∧ hdr.getLsbD 9 = false ∧ k.non.getLsbD v.val = false then ⟨.stopped, 0, 0⟩ else w.env) ∧
    (∀ u, u < 24 → k'.endx.getLsbD u = (k.endx.getLsbD u || decide (looped ∧ u = v.val))) ∧
    (w.env.phase = .stopped → w'.buf = w.buf ++ [0, 0, 0, 0] ∧ w'.hist1 = w.hist1 ∧ w'.hist2 = w.hist2) ∧
    (w.env.phase ≠ .stopped →
      let x := decodeWord cfg (ramRead m data) { w with hdr := hdr }
      w'.buf = x.buf ∧ w'.hist1 = x.hist1 ∧ w'.hist2 = x.hist2) ∧
    w' = { w with
      hdr := w'.hdr, lsa := w'.lsa, nax := w'.nax, env := w'.env, buf := w'.buf, hist1 := w'.hist1,
      hist2 := w'.hist2 } ∧
    (∀ v', v' ≠ v → k'.voice v' = k.voice v') ∧ k' = { k with voices := k'.voices, endx := k'.endx }

/-- The four nibbles are taken from bits 3..0 up to 15..12. Each sample is the nibble as a signed value in bits 15..12 shifted right by the smaller of Shift and 12, plus the prediction of the filter (5 to 7 acting as 4) shifted right by 6, clamped to 16 bits; it is appended and becomes the newest history. Header, cursor, envelope and all else stay. (R264, R265) -/
def Obligations.DataWordDecodesToFourSamples : Prop :=
  ∀ (cfg : Config) (d : Half) (w : Voice),
    let sh := min (w.hdr.extractLsb' 0 4).toNat 12
    let f := min (w.hdr.extractLsb' 4 3).toNat 4
    let coef : Int × Int := cfg.adpcmCoef.toList.getD f (0, 0)
    let sample (n : Nat) (h1 h2 : Half) : Half :=
      BitVec.ofInt 16 (max (-0x8000) (min 0x7FFF
        ((d.extractLsb' (4 * n) 4).toInt * 2 ^ 12 / 2 ^ sh + (coef.1 * h1.toInt + coef.2 * h2.toInt) / 2 ^ 6)))
    let x0 := sample 0 w.hist1 w.hist2
    let x1 := sample 1 x0 w.hist1
    let x2 := sample 2 x1 x0
    let x3 := sample 3 x2 x1
    decodeWord cfg d w = { w with buf := w.buf ++ [x0, x1, x2, x3], hist1 := x3, hist2 := x2 }

/-- If entry 0 of the coefficient table is (0, 0), as the source fixes it, then a zero data word under a header with filter 0 and any shift appends four zeros and leaves both history samples 0, for every history. (42_adpcm R278) -/
def Obligations.SilentDataDecodesToSilence : Prop :=
  ∀ (cfg : Config) (w : Voice), cfg.adpcmCoef.toList.head? = some (0, 0) → w.hdr.extractLsb' 4 3 = 0#3 →
    decodeWord cfg 0 w = { w with buf := w.buf ++ [0, 0, 0, 0], hist1 := 0, hist2 := 0 }

/-- After step 2 of a tick: a voice with a pending key-on restarts at SSA with history, queue, counter and latch cleared and the envelope in Attack at level 0; one with a pending key-off goes to Release with its level kept; one with both ends in Release at level 0; every other voice is unchanged. ENDX is cleared exactly for the voices keyed on, both pending masks are cleared, and nothing else changes. (42_adpcm R275, 42_adpcm R276, 42_adpcm R277) -/
def Obligations.KeyEventsOfATick : Prop :=
  ∀ (k : Core) (v : VoiceId),
    let w := k.voice v
    let on := k.kon.getLsbD v.val
    let off := k.koff.getLsbD v.val
    let k' := processKeys k
    (on = false → off = false → k'.voice v = w) ∧
    (on = false → off = true → k'.voice v = { w with env := ⟨.release, w.env.level, w.env.frac⟩ }) ∧
    (on = true → k'.voice v =
      { w with
        nax := w.ssa, hist1 := 0, hist2 := 0, buf := [], counter := 0, customLoop := false
        env := ⟨if off = true then .release else .attack, 0, 0⟩ }) ∧
    k'.endx.getLsbD v.val = (k.endx.getLsbD v.val && !on) ∧
    k' = { k with kon := 0, koff := 0, endx := k'.endx, voices := k'.voices }

/-- The step is PITCH, or, where the voice's modulation bit is set and the voice is not voice 0, PITCH as a signed value times (previous voice's output + 0x8000) shifted right by 15 and masked to 16 bits; clamped to 0x3FFF. The counter plus the step is split exactly into a new counter below 0x1000 and at most 4 whole samples taken off the front of the queue. Nothing else changes. (R295, R296, R297) -/
def Obligations.PitchCounterConsumesSamples : Prop :=
  ∀ (v : VoiceId) (k : Core),
    let w := k.voice v
    let prev := k.voices.toList.getD (v.val - 1) Voice.reset
    let raw : Int :=
      if k.pmon.getLsbD v.val = true ∧ 0 < v.val then
        w.pitch.toInt * (prev.out.toInt + 0x8000) / 2 ^ 15 % 2 ^ 16
      else w.pitch.toNat
    let step := min raw 0x3FFF
    let k' := advanceCounter v k
    let w' := k'.voice v
    (∃ pops : Nat, pops ≤ 4 ∧ (w'.counter.toNat + 0x1000 * pops : Int) = w.counter.toNat + step ∧
      w' = { w with counter := w'.counter, buf := w.buf.drop pops }) ∧
    (∀ v', v' ≠ v → k'.voice v' = k.voice v') ∧ k' = { k with voices := k'.voices }

/-- The timer loses ATTR bits 9..8 plus 4; if it is then negative the register shifts left by one and takes the inverted parity of bits 15, 12, 11 and 10 into bit 0, and the timer gains 0x20000 shifted right by ATTR bits 13..10 up to twice while negative. Nothing else of the core changes, and the shift loses no information: it is injective (an inference from the shift rule). (43_interp_pitch_noise R301, 43_interp_pitch_noise R302) -/
def Obligations.NoiseGeneratorTick : Prop :=
  (∀ k : Core,
    let nstep : Int := (k.attr.extractLsb' 8 2).toNat + 4
    let reload : Int := 0x20000 / 2 ^ (k.attr.extractLsb' 10 4).toNat
    let t1 := k.noise.timer - nstep
    let t2 := if t1 < 0 then t1 + reload else t1
    let t3 := if t2 < 0 then t2 + reload else t2
    let l := k.noise.level
    k.noiseTick.noise.timer = t3 ∧
    (0 ≤ t1 → k.noiseTick.noise.level = l) ∧
    (t1 < 0 →
      k.noiseTick.noise.level.getLsbD 0 =
        !(l.getLsbD 15 != (l.getLsbD 12 != (l.getLsbD 11 != l.getLsbD 10))) ∧
      ∀ i, i < 15 → k.noiseTick.noise.level.getLsbD (i + 1) = l.getLsbD i) ∧
    k.noiseTick = { k with noise := k.noiseTick.noise }) ∧
  ∀ x y : Half, noiseShift x = noiseShift y → x = y

/-- For every integer offset, with EEA above ESA: the address is ESA + ((pos + x) mod (EEA - ESA)) with the mathematical modulus, at least ESA and below EEA; the word at EEA is never reached. (R326) -/
def Obligations.ReverbOffsetStaysInWorkArea : Prop :=
  ∀ (k : Core) (x : Int), k.esa.toNat < k.eea.toNat →
    ((rvbOffset k x).toNat : Int) =
        k.esa.toNat + (k.rvb.pos.toNat + x).emod ((k.eea.toNat : Int) - k.esa.toNat) ∧
      k.esa.toNat ≤ (rvbOffset k x).toNat ∧ (rvbOffset k x).toNat < k.eea.toNat

/-- With EEA at or below ESA a reverb tick leaves every byte of RAM, the interrupt status, the record, the other core and the cursor alone; the wet input still enters the down-sampling histories, zeros enter both up-sampling histories, and the phase toggles. (44_reverb R327, 44_reverb R321) -/
def Obligations.DegenerateWorkAreaIsInert : Prop :=
  ∀ (cfg : Config) (c : CoreId) (inp : Frame) (e : Engine), (e.core c).eea.toNat ≤ (e.core c).esa.toNat →
    let e' := (reverb cfg c inp e).1
    let w := (e.core c).rvb
    let w' := (e'.core c).rvb
    (∀ a, readByte? e'.ram a = readByte? e.ram a) ∧ e'.irqstat = e.irqstat ∧ e'.log = e.log ∧
    (∀ c', c' ≠ c → e'.core c' = e.core c') ∧
    w'.pos = w.pos ∧ w'.phase ≠ w.phase ∧
    w'.down.left.toList = inp.left :: w.down.left.toList.take 38 ∧
    w'.down.right.toList = inp.right :: w.down.right.toList.take 38 ∧
    w'.up.left.toList = 0 :: w.up.left.toList.take 38 ∧
    w'.up.right.toList = 0 :: w.up.right.toList.take 38 ∧
    e'.core c = { e.core c with rvb := w' }

/-- In a reverb tick every byte of RAM is unchanged unless EffectEnable is set and the byte belongs to a word from ESA up to but not including EEA. With EEA above ESA the filter network makes its four stores, each reading what the earlier ones left, with the values of the rule in saturating arithmetic, and answers the value of the second all-pass; with EffectEnable clear it computes the same from the RAM as it stands and drops the stores. Each of the 14 addresses that lies at IRQA sends one signal and sets the cause, stores dropped or not, where the reverb is a source and IrqEnable is set; the cores stay. (44_reverb R326, 44_reverb R328, 44_reverb R329, 44_reverb R330, 44_reverb R331, 44_reverb R332, 44_reverb R333, 44_reverb R334, 44_reverb R335, 60_exceptions R443) -/
def Obligations.ReverbStoresAreGatedAndConfined : Prop :=
  (∀ (cfg : Config) (c : CoreId) (inp : Frame) (e : Engine) (b : Nat),
    ¬ (e.core c).reverbMayWrite (b / 2) → readByte? (reverb cfg c inp e).1.ram b = readByte? e.ram b) ∧
  ∀ (cfg : Config) (c : CoreId) (ph : Side) (x : Half) (e : Engine), (e.core c).esa.toNat < (e.core c).eea.toNat →
    let k := e.core c
    let tap (o : RvbOffset) (i : Side) : Int := (k.off o i).toNat
    let rd (m : Memory) (y : Int) : Half := ramRead m (rvbOffset k y)
    let wr (m : Memory) (y : Int) (d : Half) : Memory :=
      if k.attr.getLsbD 7 = true then ramWrite m (rvbOffset k y) d else m
    let vin := k.coef (match ph with | .left => .vIN0 | .right => .vIN1)
    let opp : Side := match ph with | .left => .right | .right => .left
    let lin := times x vin
    let refl (m : Memory) (dst src : Int) : Half :=
      let t := rd m (dst - 1)
      plus (times (minus (plus lin (times (rd m src) (k.coef .vWALL))) t) (k.coef .vIIR)) t
    let m1 := wr e.ram (tap .mSAME ph) (refl e.ram (tap .mSAME ph) (tap .dSAME ph))
    let m2 := wr m1 (tap .mDIFF ph) (refl m1 (tap .mDIFF ph) (tap .dDIFF opp))
    let o0 := plus (plus (plus (times (k.coef .vCOMB1) (rd m2 (tap .mCOMB1 ph)))
      (times (k.coef .vCOMB2) (rd m2 (tap .mCOMB2 ph)))) (times (k.coef .vCOMB3) (rd m2 (tap .mCOMB3 ph))))
      (times (k.coef .vCOMB4) (rd m2 (tap .mCOMB4 ph)))
    let d1 := rd m2 (tap .mAPF1 ph - tap .dAPF .left)
    let o1 := minus o0 (times (k.coef .vAPF1) d1)
    let m3 := wr m2 (tap .mAPF1 ph) o1
    let o2 := plus (times o1 (k.coef .vAPF1)) d1
    let d2 := rd m3 (tap .mAPF2 ph - tap .dAPF .right)
    let o3 := minus o2 (times (k.coef .vAPF2) d2)
    let accesses := [tap .mSAME ph - 1, tap .dSAME ph, tap .mSAME ph, tap .mDIFF ph - 1, tap .dDIFF opp,
      tap .mDIFF ph, tap .mCOMB1 ph, tap .mCOMB2 ph, tap .mCOMB3 ph, tap .mCOMB4 ph,
      tap .mAPF1 ph - tap .dAPF .left, tap .mAPF1 ph, tap .mAPF2 ph - tap .dAPF .right, tap .mAPF2 ph]
    let hits :=
      if cfg.irqSources.reverb = true ∧ k.attr.getLsbD 6 = true
      then accesses.countP fun y => rvbOffset k y == k.irqa else 0
    let r := rvbCore cfg c ph x e
    r.1.ram = wr m3 (tap .mAPF2 ph) o3 ∧ r.2 = plus (times o3 (k.coef .vAPF2)) d2 ∧
    r.1.log = List.replicate hits (.irq c) ++ e.log ∧
    (∀ c', r.1.irqstat.cause c' = true ↔ e.irqstat.cause c' = true ∨ c' = c ∧ 0 < hits) ∧
    r.1.irqstat.half = e.irqstat.half ∧ ∀ c', r.1.core c' = e.core c'

/-- A reverb tick toggles the phase; after a right-phase tick with EEA above ESA the cursor is (pos + 1) mod (EEA - ESA), otherwise it stays. Both inputs are pushed onto the down histories; the filter network runs on the filtered history of the phase, and its value (0 where EEA is not above ESA) is pushed onto the up history of the phase and a 0 onto the other; the output is both filtered up histories; the RAM, the signals and the interrupt status afterwards are those the filter network leaves. No register of the core and nothing of the other core changes. (44_reverb R321, 44_reverb R322, 44_reverb R324, 44_reverb R325, 44_reverb R338) -/
def Obligations.ReverbCursorAdvance : Prop :=
  ∀ (cfg : Config) (c : CoreId) (inp : Frame) (e : Engine),
    let k := e.core c
    let k' := (reverb cfg c inp e).1.core c
    let pushed := e.updCore c fun k => { k with rvb := { k.rvb with down := k'.rvb.down } }
    let x := firOf cfg cfg.rvbDownShift (k'.rvb.down.get k.rvb.phase).toList
    let core := rvbCore cfg c k.rvb.phase x pushed
    let area := k.esa.toNat < k.eea.toNat
    let y : Half := if area then core.2 else 0
    k'.rvb.phase = (if k.rvb.phase = .left then .right else .left) ∧
    k'.rvb.pos.toNat =
      (if k.rvb.phase = .right ∧ k.esa.toNat < k.eea.toNat
        then (k.rvb.pos.toNat + 1) % (k.eea.toNat - k.esa.toNat) else k.rvb.pos.toNat) ∧
    (∀ ch, (k'.rvb.down.get ch).toList = inp.get ch :: (k.rvb.down.get ch).toList.take 38 ∧
      (k'.rvb.up.get ch).toList =
        (if ch = k.rvb.phase then y else 0) :: (k.rvb.up.get ch).toList.take 38 ∧
      (reverb cfg c inp e).2.get ch = firOf cfg cfg.rvbUpShift (k'.rvb.up.get ch).toList) ∧
    (reverb cfg c inp e).1.ram = (if area then core.1.ram else e.ram) ∧
    (reverb cfg c inp e).1.log = (if area then core.1.log else e.log) ∧
    (reverb cfg c inp e).1.irqstat = (if area then core.1.irqstat else e.irqstat) ∧
    k' = { k with rvb := k'.rvb } ∧
    ∀ c', c' ≠ c → (reverb cfg c inp e).1.core c' = e.core c'

/-- For every voice: out is floor(raw * level / 2^15) exactly, where raw is the noise level for a noise voice and the interpolated sample otherwise, and the left and right samples are out times the volume level over 2^15, clamped; a level of 0 gives 0 everywhere. Step 9 changes nothing else of the core. The row sums of every table are within 1 of one constant; the interpolated sample is the clamped floor of the sum of the four oldest samples times the row that bits 11..4 of the counter select, over 2^15. In a tick every voice takes its decode step after the key events and the captures of step 1, then one EnvTick, one VolTick of each volume, one counter advance by PITCH, modulated by the previous voice's output of before the tick, and then its output from its queue as step 4 leaves it, which holds at least four samples, or from the noise level at the start of the tick, with the level after EnvTick. That the EnvTick belongs to the very tick whose step 2 processed the key events, so that a voice with both key bits, or a Stopped one keyed off, ends that tick Stopped, is the model's choice (log 22): R277 and R483 speak of the next tick. ENDX is as key events and decode steps leave it; nothing else of the core changes. (45_mixer R363, 45_mixer R366, 45_mixer R368, 45_mixer R369, 45_mixer R370, 45_mixer R371, 45_mixer R386, 43_interp_pitch_noise R290, 43_interp_pitch_noise R291, 43_interp_pitch_noise R300, 43_interp_pitch_noise R295) -/
def Obligations.VoiceOutputsAreLatched : Prop :=
  (∀ (raw : List Half) (k : Core), raw.length = 24 → (∀ v, 0 ≤ (k.voice v).env.level.toInt) →
    let k' := latchOuts raw k
    (∀ (v : VoiceId) (ch : Side),
      let w := k.voice v
      let x : Half := if k.non.getLsbD v.val = true then k.noise.level else raw.getD v.val 0
      (k'.voice v).out.toInt = x.toInt * w.env.level.toInt / 2 ^ 15 ∧
      k'.voice v = { w with out := (k'.voice v).out } ∧
      (panned k' ch v).toInt =
        max (-0x8000) (min 0x7FFF ((k'.voice v).out.toInt * (w.vol.get ch).level.toInt / 2 ^ 15)) ∧
      (w.env.level = 0 → (k'.voice v).out = 0 ∧ panned k' ch v = 0)) ∧
    k' = { k with voices := k'.voices }) ∧
  (∀ cfg : Config, ∃ total : Int, ∀ row ∈ cfg.gauss.rows.toList,
    (row[0].toInt + row[1].toInt + row[2].toInt + row[3].toInt - total).natAbs ≤ 1) ∧
  (∀ (cfg : Config) (w : Voice) (b0 b1 b2 b3 : Half) (rest : List Half), w.buf = b0 :: b1 :: b2 :: b3 :: rest →
    let row := cfg.gauss.rows.toList.getD (w.counter.extractLsb' 4 8).toNat (Vector.replicate 4 0)
    interpolate cfg w = saturate
      ((b0.toInt * row[0].toInt + b1.toInt * row[1].toInt + b2.toInt * row[2].toInt + b3.toInt * row[3].toInt)
        / 2 ^ 15)) ∧
  (∀ (cfg : Config) (c : CoreId) (sin : Frame) (e : Engine),
    let k2 := processKeys (e.core c)
    let k' := (voiceSteps cfg c sin e).core c
    k' = { k2 with endx := k'.endx, voices := k'.voices } ∧
    ∀ v : VoiceId, k'.endx.getLsbD v.val = (decodeStep cfg (captureSin cfg c sin e).ram v k2).endx.getLsbD v.val) ∧
  ∀ (cfg : Config) (c : CoreId) (sin : Frame) (e : Engine) (v : VoiceId),
    let k := e.core c
    let w4 := (decodeStep cfg (captureSin cfg c sin e).ram v (processKeys k)).voice v
    let w := ((voiceSteps cfg c sin e).core c).voice v
    let F := cfg.envFracBits.val
    let prev := k.voices.toList.getD (v.val - 1) Voice.reset
    let step : Int := min (if k.pmon.getLsbD v.val = true ∧ 0 < v.val then
        w4.pitch.toInt * (prev.out.toInt + 0x8000) / 2 ^ 15 % 2 ^ 16
      else w4.pitch.toNat) 0x3FFF
    let x : Half := if k.non.getLsbD v.val = true then k.noise.level else interpolate cfg w4
    (∃ pops : Nat, pops ≤ 4 ∧ (w.counter.toNat + 0x1000 * pops : Int) = w4.counter.toNat + step ∧
      w = { w4 with
        env := (envTick F w4.adsr1 w4.adsr2 w4.env).1, vol := ⟨volTick F w4.vol.left, volTick F w4.vol.right⟩
        counter := w.counter, buf := w4.buf.drop pops, out := w.out }) ∧
    4 ≤ w4.buf.length ∧
    ((∀ u, 0 ≤ (k.voice u).env.level.toInt) →
      0 ≤ w.env.level.toInt ∧ w.out.toInt = x.toInt * w.env.level.toInt / 2 ^ 15)

/-- RUN completes; the accumulator afterwards is (runAcc + n) mod TICK_CYCLES, and the record has gained exactly (runAcc + n) div TICK_CYCLES frames. Each round is core 0's tick, with the next external sample or EXT_IN as its sound-in, then core 1's tick with core 0's output as its sound-in, then the frame, which is core 1's output; the rounds follow each other with nothing between, and each takes one external sample off its queue. The queue of external samples is the model's (log 10). The parameters, the SPDIF registers and the diagnostics stay. (45_mixer R361, 45_mixer R362, 45_mixer R364, 10_state R23) -/
def Obligations.RunCountsTicksAndFrames : Prop :=
  ∀ (n : Half) (s : State), ∃ t, exec (.run n) s = .next t ∧
    t.runAcc = (s.runAcc + n.toNat) % s.cfg.tickCycles.val ∧
    t.engine.log.countP Event.isFrame =
      s.engine.log.countP Event.isFrame + (s.runAcc + n.toNat) / s.cfg.tickCycles.val ∧
    t.cfg = s.cfg ∧ t.spdif = s.spdif ∧ t.fault = s.fault ∧
    t.extIn = s.extIn.drop ((s.runAcc + n.toNat) / s.cfg.tickCycles.val) ∧
    ∃ es : Nat → Engine, es 0 = s.engine ∧ t.engine = es ((s.runAcc + n.toNat) / s.cfg.tickCycles.val) ∧
      ∀ j, j < (s.runAcc + n.toNat) / s.cfg.tickCycles.val →
        let r0 := tick s.cfg .core0 (s.extIn.getD j s.cfg.extIn) (es j)
        let r1 := tick s.cfg .core1 r0.2 r0.1
        es (j + 1) = { r1.1 with log := .frame r1.2 :: r1.1.log }

/-- For every state and all cycle counts whose sum fits the operand: performing RUN a and then RUN b gives exactly the state that RUN a+b gives. (45_mixer R361) -/
def Obligations.SuccessiveRunsAddUp : Prop :=
  ∀ (a b : Half) (s t : State), a.toNat + b.toNat < 2 ^ 16 → exec (.run a) s = .next t →
    exec (.run b) t = exec (.run (a + b)) s

/-- A tick of core c moves OutPos on by one modulo 0x200. When the new position is a multiple of 0x100 the half bit becomes its bit 8 and, with Auto-DMA active, a draining sequence gets its refill remembered, or a waiting write transfer is granted 16 bursts into the other half; that the refill is remembered also where no word is left to send is the model's choice (log 24), the prose of R413 says it is not; otherwise the half bit and the Auto-DMA counters stay. The noise generator takes one NoiseTick and each master volume unit one VolTick, from their values before the tick; besides these and the working state of the reverb, the core is as steps 1 to 9 leave it. The other core is untouched. (43_interp_pitch_noise R302, 45_mixer R363, 45_mixer R380, 45_mixer R382, 46_dma R413) -/
def Obligations.TickMovesPositionAndTriggersRefill : Prop :=
  ∀ (cfg : Config) (c : CoreId) (sin : Frame) (e : Engine),
    let k := e.core c
    let e' := (tick cfg c sin e).1
    let k' := e'.core c
    let p := (k.outPos.toNat + 1) % 0x200
    k'.outPos.toNat = p ∧
    e'.irqstat.half = (if p % 0x100 = 0 then decide (0x100 ≤ p) else e.irqstat.half) ∧
    k'.adma =
      (if p % 0x100 = 0 ∧ k.admas.getLsbD c.num = true then
        (if k.adma.left ≠ 0 then { k.adma with pending := true }
        else if 0 < k.dma.size ∧ k.dma.dir = .write then { k.adma with left := 16, half := decide (p < 0x100) }
        else k.adma)
      else k.adma) ∧
    k' = { (voiceSteps cfg c sin e).core c with
      rvb := k'.rvb, outPos := k'.outPos, adma := k'.adma, noise := k.noiseTick.noise
      mvol := ⟨volTick cfg.envFracBits.val k.mvol.left, volTick cfg.envFracBits.val k.mvol.right⟩ } ∧
    ∀ c', c' ≠ c → e'.core c' = e.core c'

/-- RUN completes, and every byte of RAM reads as before unless its word lies in a capture area of CAPTURE_SET of either core or in the work area of a core whose EffectEnable is set. After a tick of core c at position p the word c*0x1000 + n*0x200 + p of each enabled capture area n holds: the raw sound-in of its side (where the reverb may not write that word), the outputs of voices 1 and 3, the two dry and the two wet voice buses. (20_memory R76, 44_reverb R331, 45_mixer R363, 45_mixer R365, 45_mixer R372, 45_mixer R379) -/
def Obligations.RunStoresOnlyCapturesAndReverb : Prop :=
  (∀ (n : Half) (s : State), ∃ t, exec (.run n) s = .next t ∧
    ∀ b : Nat, (∀ c, ¬ CapturedWord s.cfg c (b / 2) ∧ ¬ (s.core c).reverbMayWrite (b / 2)) →
      readByte? t.engine.ram b = readByte? s.engine.ram b) ∧
  ∀ (cfg : Config) (c : CoreId) (sin : Frame) (e : Engine),
    let t := (tick cfg c sin e).1
    let k := t.core c
    let addr (n : Nat) : RamAddr := BitVec.ofNat 20 (c.num * 0x1000 + n * 0x200 + (e.core c).outPos.toNat)
    (cfg.captureSet.sinL = true → ¬ (e.core c).reverbMayWrite (addr 0).toNat → ramRead t.ram (addr 0) = sin.left) ∧
    (cfg.captureSet.sinR = true → ¬ (e.core c).reverbMayWrite (addr 1).toNat → ramRead t.ram (addr 1) = sin.right) ∧
    (cfg.captureSet.voice1 = true → ramRead t.ram (addr 2) = (k.voice 1).out) ∧
    (cfg.captureSet.voice3 = true → ramRead t.ram (addr 3) = (k.voice 3).out) ∧
    (cfg.captureSet.dryL = true → ramRead t.ram (addr 4) = busOf k k.vmixl .left) ∧
    (cfg.captureSet.dryR = true → ramRead t.ram (addr 5) = busOf k k.vmixr .right) ∧
    (cfg.captureSet.wetL = true → ramRead t.ram (addr 6) = busOf k k.vmixel .left) ∧
    (cfg.captureSet.wetR = true → ramRead t.ram (addr 7) = busOf k k.vmixer .right)

/-- RUN completes and leaves on both cores what only the host writes as it was: PMON, NON, the four routing masks, MMIX, ATTR, IRQA, TSA, ADMAS, the volume registers as written, EVOL, AVOL, BVOL, ESA, EEA, the reverb offsets and coefficients, and of every voice the volume registers as written, PITCH, ADSR1, ADSR2 and SSA; and so the DMA engine with its cursor TADDR. ENDX, LSA and NAX, which a tick changes, are not among them; the pending key masks are cleared if at least one tick ran and kept otherwise. (45_mixer R360, 45_mixer R363, 46_dma R408) -/
def Obligations.RunKeepsHostRegisters : Prop :=
  ∀ (n : Half) (s : State), ∃ t, exec (.run n) s = .next t ∧
    ∀ c, (s.core c).SameSettings (t.core c) ∧
      (t.core c).kon = (if s.runAcc + n.toNat < s.cfg.tickCycles.val then (s.core c).kon else 0) ∧
      (t.core c).koff = (if s.runAcc + n.toNat < s.cfg.tickCycles.val then (s.core c).koff else 0)

/-- Each side of a tick's output is its mix times the master level after the sweep: the dry voice bus, the scaled sound-in and the scaled memory-in, each where its MMIX bit lets it through, plus the reverb's output times EVOL, with saturation after every addition. The reverb's input is the wet mix of the same three under their wet bits. The buses are the masked sums of the voices' outputs times their volume levels; memory-in is the word of the core's input area at the position before the tick. The working state of the reverb, and every word of RAM that step 14 does not capture to, are as the reverb leaves them on that input; after it only the words of step 14 are tested, each enabled one at IRQA sending one signal and setting the cause. If both master volume units of a core hold register, level and fraction 0, the tick of that core outputs (0, 0), whatever its voices, inputs, reverb and memory hold. (20_memory R76, 30_encoding R121, 45_mixer R379, 60_exceptions R443, 45_mixer R371, 45_mixer R372, 45_mixer R373, 45_mixer R374, 45_mixer R375, 45_mixer R376, 45_mixer R377, 45_mixer R382) -/
def Obligations.MasterVolumeAtResetIsSilence : Prop :=
  (∀ (cfg : Config) (c : CoreId) (sin : Frame) (e : Engine),
    let t := tick cfg c sin e
    let k := t.1.core c
    let gate (bit : Nat) (x : Half) : Half := if k.mmix.getLsbD bit = true then x else 0
    let sound (ch : Side) := times (sin.get ch) (k.avol.get ch)
    let memory (ch : Side) :=
      times (ramRead e.ram (BitVec.ofNat 20 (0x2000 + c.num * 0x400 + ch.num * 0x200 + (e.core c).outPos.toNat)))
        (k.bvol.get ch)
    let dryMask : Side → VoiceMask := fun | .left => k.vmixl | .right => k.vmixr
    let wetMask : Side → VoiceMask := fun | .left => k.vmixel | .right => k.vmixer
    let wet (ch : Side) := plus (plus (gate (9 - ch.num) (busOf k (wetMask ch) ch)) (gate (1 - ch.num) (sound ch)))
      (gate (5 - ch.num) (memory ch))
    let dry (ch : Side) := plus (plus (gate (11 - ch.num) (busOf k (dryMask ch) ch)) (gate (3 - ch.num) (sound ch)))
      (gate (7 - ch.num) (memory ch))
    let r := reverb cfg c ⟨wet .left, wet .right⟩ (readMemins cfg c (voiceSteps cfg c sin e)).1
    let addr (n : Nat) : RamAddr := BitVec.ofNat 20 (c.num * 0x1000 + n * 0x200 + (e.core c).outPos.toNat)
    let s := cfg.captureSet
    let hits :=
      if cfg.irqSources.capture = true ∧ k.attr.getLsbD 6 = true
      then [(s.voice1, 2), (s.voice3, 3), (s.dryL, 4), (s.dryR, 5), (s.wetL, 6), (s.wetR, 7)].countP
        fun area => area.1 && addr area.2 == k.irqa
      else 0
    (∀ ch, t.2.get ch =
      times (plus (dry ch) (times (r.2.get ch) (k.evol.get ch))) (k.mvol.get ch).level) ∧
    k.rvb = (r.1.core c).rvb ∧
    (∀ a, (∀ n, 2 ≤ n → n < 8 → a ≠ addr n) → ramRead t.1.ram a = ramRead r.1.ram a) ∧
    t.1.log = List.replicate hits (.irq c) ++ r.1.log ∧
    ∀ c', t.1.irqstat.cause c' = true ↔ r.1.irqstat.cause c' = true ∨ c' = c ∧ 0 < hits) ∧
  ∀ (cfg : Config) (c : CoreId) (sin : Frame) (e : Engine),
    (e.core c).mvol = ⟨⟨0, 0, 0⟩, ⟨0, 0, 0⟩⟩ → (tick cfg c sin e).2 = ⟨0, 0⟩

/-- With the source enabled, IrqEnable set and the address equal to IRQA, the cause bit of the core is set and one signal is recorded, also when the bit was already set; the other cause bit, the half bit, the RAM and both cores stay. In every other case the test changes nothing. Step 3 sends one signal for every voice, whatever its phase, whose cursor is at IRQA, sets the cause if there is one, and changes nothing else. Before the reverb a tick tests the enabled sound-in capture words, every voice's cursor after the key events, and both memory-in words: one signal for each hit of an enabled source, nothing else; after a tick the cause is set if after the key events a voice's cursor was at IRQA. (60_exceptions R443, 60_exceptions R444, 45_mixer R365, 45_mixer R367, 45_mixer R373) -/
def Obligations.AddressMatchInterrupt : Prop :=
  (∀ (cfg : Config) (c : CoreId) (a : RamAddr) (src : IrqSource) (e : Engine),
    let hit := cfg.irqSources.has src = true ∧ (e.core c).attr.getLsbD 6 = true ∧ a = (e.core c).irqa
    let e' := irqTest cfg c a src e
    (¬ hit → e' = e) ∧
    (hit → e'.irqstat.cause c = true ∧ e'.log = .irq c :: e.log ∧
      (∀ c', c' ≠ c → e'.irqstat.cause c' = e.irqstat.cause c') ∧ e'.irqstat.half = e.irqstat.half ∧
      e'.ram = e.ram ∧ ∀ c', e'.core c' = e.core c')) ∧
  (∀ (cfg : Config) (c : CoreId) (e : Engine),
    let k := e.core c
    let hits :=
      if cfg.irqSources.voice = true ∧ k.attr.getLsbD 6 = true
      then (List.finRange 24).countP fun v => (k.voice v).nax == k.irqa else 0
    let e' := testVoices cfg c e
    e'.log = List.replicate hits (.irq c) ++ e.log ∧
    (∀ c', e'.irqstat.cause c' = true ↔ e.irqstat.cause c' = true ∨ c' = c ∧ 0 < hits) ∧
    e'.irqstat.half = e.irqstat.half ∧ e'.ram = e.ram ∧ ∀ c', e'.core c' = e.core c') ∧
  (∀ (cfg : Config) (c : CoreId) (sin : Frame) (e : Engine),
    let k := e.core c
    let counted (src : Bool) (n : Nat) : Nat := if src = true ∧ k.attr.getLsbD 6 = true then n else 0
    let captured := [(cfg.captureSet.sinL, 0), (cfg.captureSet.sinR, 1)].countP fun area =>
      area.1 && BitVec.ofNat 20 (c.num * 0x1000 + area.2 * 0x200 + k.outPos.toNat) == k.irqa
    let voices := (List.finRange 24).countP fun v => ((processKeys k).voice v).nax == k.irqa
    let memins := [0, 1].countP fun ch =>
      BitVec.ofNat 20 (0x2000 + c.num * 0x400 + ch * 0x200 + k.outPos.toNat) == k.irqa
    let hits := counted cfg.irqSources.capture captured + counted cfg.irqSources.voice voices +
      counted cfg.irqSources.memin memins
    let e' := (readMemins cfg c (voiceSteps cfg c sin e)).1
    e'.log = List.replicate hits (.irq c) ++ e.log ∧
    (∀ c', e'.irqstat.cause c' = true ↔ e.irqstat.cause c' = true ∨ c' = c ∧ 0 < hits) ∧
    e'.ram = (captureSin cfg c sin e).ram ∧ ∀ c', e'.core c' = (voiceSteps cfg c sin e).core c') ∧
  ∀ (cfg : Config) (c : CoreId) (sin : Frame) (e : Engine) (v : VoiceId),
    let k := e.core c
    cfg.irqSources.voice = true → k.attr.getLsbD 6 = true → ((processKeys k).voice v).nax = k.irqa →
    (tick cfg c sin e).1.irqstat.cause c = true

/-- For every operation that completes: a cause bit that was set stays set unless the operation is RESET or a write of that core's ATTR with bit 6 clear. (60_exceptions R445, 10_state R21) -/
def Obligations.CauseStaysUntilAcknowledged : Prop :=
  ∀ (i : Instr) (c : CoreId) (s t : State), exec i s = .next t → s.engine.irqstat.cause c = true →
    i ≠ .reset → (∀ d, i = .attr c (.write d) → d.getLsbD 6 = true) → t.engine.irqstat.cause c = true

/-- DMAWR sets direction, length, host position and countdown, takes the host's words, and, with Auto-DMA active, no sequence in flight and a length above 0, grants 16 bursts into the half the mixer is not reading; DMARD sets the same with direction Read and grants nothing. Neither moves a word, raises a signal, or changes anything else, also when a transfer was active. That the words stand with the transfer is the model's choice (log 6). (46_dma R402, 46_dma R403, 46_dma R414) -/
def Obligations.DmaStarts : Prop :=
  ∀ (c : CoreId) (n : Half) (s : State),
    WritesCore (.dmaWr c n) c s (fun k k' =>
      k' = { k with
        dma := ⟨.write, n.toNat, s.cfg.dmaStartCycles.val, 0, s.supply.take n.toNat⟩
        adma :=
          if k.admas.getLsbD c.num = true ∧ k.adma.left = 0 ∧ 0 < n.toNat
          then ⟨16, !k.outPos.getLsbD 8, false⟩ else k.adma }) ∧
    WritesCore (.dmaRd c n) c s (fun k k' =>
      k' = { k with dma := ⟨.read, n.toNat, s.cfg.dmaStartCycles.val, 0, []⟩ })

/-- Idle: nothing changes. With cycles left in the countdown afterwards: only the countdown changes. With a burst due on an Auto-DMA write that has no sequence granted: only the countdown changes, to 0. (46_dma R405, 46_dma R406) -/
def Obligations.RunDmaWithoutABurst : Prop :=
  ∀ (c : CoreId) (n : Half) (s : State),
    let k := s.core c
    (k.dma.size = 0 → Ignored (.runDma c n) s) ∧
    (k.dma.size ≠ 0 → 0 < k.dma.count - n.toNat →
      WritesCore (.runDma c n) c s (fun k k' => k' = { k with dma := { k.dma with count := k.dma.count - n.toNat } })) ∧
    (k.dma.size ≠ 0 → k.dma.count - n.toNat ≤ 0 → k.dma.dir = .write → k.admas.getLsbD c.num = true →
      k.adma.left = 0 → WritesCore (.runDma c n) c s (fun k k' => k' = { k with dma := { k.dma with count := 0 } }))

/-- With a burst due on a write transfer without Auto-DMA: RUNDMA stores the next min(32, size) host words at TADDR on (modulo 2^20) and no other byte, moves TADDR and the host position on by as many, takes them off the size, re-arms the countdown, and signals DmaDone exactly if the size reaches 0; a word of the host's stream before its end is the stream's own element (that the stream stands with the transfer is the model's choice, log 6); with DMA a source and IrqEnable set, one interrupt signal of the core is sent for each word moved that lies at IRQA and the cause is set if there is one, in every other case none. Nothing else changes and no other signal is sent. (46_dma R401, 46_dma R405, 46_dma R407, 46_dma R408, 46_dma R409, 60_exceptions R443, 60_exceptions R444) -/
def Obligations.WriteBurstMovesWordsToRam : Prop :=
  ∀ (c : CoreId) (n : Half) (s : State),
    let k := s.core c
    let len := min 32 k.dma.size
    let hit := s.cfg.irqSources.dma = true ∧ k.attr.getLsbD 6 = true ∧ ∃ i, i < len ∧ wrapAdd k.taddr i = k.irqa
    let hits :=
      if s.cfg.irqSources.dma = true ∧ k.attr.getLsbD 6 = true
      then (List.range len).countP fun i => wrapAdd k.taddr i == k.irqa else 0
    k.dma.size ≠ 0 → k.dma.count - n.toNat ≤ 0 → k.dma.dir = .write → k.admas.getLsbD c.num = false →
    ∃ t, exec (.runDma c n) s = .next t ∧ SameOutsideEngine s t ∧
      (∀ i, i < len → ramRead t.engine.ram (wrapAdd k.taddr i) =
        k.dma.hostWord (missingWords s) (k.dma.hostPos + i)) ∧
      (∀ i, i < len → k.dma.hostPos + i < k.dma.stream.length →
        ramRead t.engine.ram (wrapAdd k.taddr i) = k.dma.stream.getD (k.dma.hostPos + i) 0) ∧
      (∀ b, (∀ i, i < len → b / 2 ≠ (wrapAdd k.taddr i).toNat) →
        readByte? t.engine.ram b = readByte? s.engine.ram b) ∧
      t.core c = { k with
        taddr := wrapAdd k.taddr len
        dma := { k.dma with
          size := k.dma.size - len, hostPos := k.dma.hostPos + len, count := s.cfg.dmaBurstCycles.val } } ∧
      (∀ c', c' ≠ c → t.core c' = s.core c') ∧
      t.engine.log =
        (if k.dma.size ≤ 32 then [.dmaDone c] else []) ++ List.replicate hits (.irq c) ++ s.engine.log ∧
      (∀ c', t.engine.irqstat.cause c' = true ↔ s.engine.irqstat.cause c' = true ∨ c' = c ∧ hit) ∧
      t.engine.irqstat.half = s.engine.irqstat.half

/-- With a burst due on a read transfer, Auto-DMA active or not: RUNDMA delivers the words at TADDR on in ascending order, changes no byte of RAM, moves TADDR and the host position on, takes the words off the size, re-arms the countdown, and signals DmaDone after them exactly if the size reaches 0; with DMA a source and IrqEnable set, a word at IRQA is followed by one interrupt signal of the core and the cause is set, in every other case none. Nothing else changes and no other signal is sent. (46_dma R403, 46_dma R405, 46_dma R407, 46_dma R408, 46_dma R409, 60_exceptions R443, 60_exceptions R444) -/
def Obligations.ReadBurstDeliversWords : Prop :=
  ∀ (c : CoreId) (n : Half) (s : State),
    let k := s.core c
    let len := min 32 k.dma.size
    let hit := s.cfg.irqSources.dma = true ∧ k.attr.getLsbD 6 = true ∧ ∃ i, i < len ∧ wrapAdd k.taddr i = k.irqa
    k.dma.size ≠ 0 → k.dma.count - n.toNat ≤ 0 → k.dma.dir = .read →
    ∃ t, exec (.runDma c n) s = .next t ∧ SameOutsideEngine s t ∧ SameRam s t ∧
      t.core c = { k with
        taddr := wrapAdd k.taddr len
        dma := { k.dma with
          size := k.dma.size - len, hostPos := k.dma.hostPos + len, count := s.cfg.dmaBurstCycles.val } } ∧
      (∀ c', c' ≠ c → t.core c' = s.core c') ∧
      t.engine.log =
        (if k.dma.size ≤ 32 then [.dmaDone c] else []) ++
          ((List.range len).flatMap fun i =>
            Event.dmaWord c (ramRead s.engine.ram (wrapAdd k.taddr i)) ::
              if s.cfg.irqSources.dma = true ∧ k.attr.getLsbD 6 = true ∧ wrapAdd k.taddr i = k.irqa
              then [Event.irq c] else []).reverse ++
          s.engine.log ∧
      (∀ c', t.engine.irqstat.cause c' = true ↔ s.engine.irqstat.cause c' = true ∨ c' = c ∧ hit) ∧
      t.engine.irqstat.half = s.engine.irqstat.half

/-- With a burst due on an Auto-DMA write with a sequence in flight: RUNDMA stores the next min(32, size) host words in the chunk of the core's input areas that the sequence counter and the half select and no other byte; the cursor TADDR stays; size, host position, countdown and counters change as the rules say, with a remembered refill granted at the end of the sequence if words remain; DmaDone is signalled exactly if the size reaches 0. A word of the host's stream before its end is the stream's own element (that the stream stands with the transfer is the model's choice, log 6). With DMA a source and IrqEnable set, one interrupt signal of the core is sent for each word stored that lies at IRQA and the cause is set if there is one, in every other case none; no other signal is sent. The other core and the half bit are untouched. Left is at most 16 by its type. (46_dma R401, 46_dma R405, 46_dma R409, 46_dma R411, 46_dma R412, 20_memory R76, 60_exceptions R443, 60_exceptions R444) -/
def Obligations.AutoDmaBurstFillsInputArea : Prop :=
  ∀ (c : CoreId) (n : Half) (s : State),
    let k := s.core c
    let len := min 32 k.dma.size
    let idx := 16 - k.adma.left.val
    let base := 0x2000 + c.num * 0x400 + idx / 8 * 0x200 + (if k.adma.half = true then 0x100 else 0) + idx % 8 * 32
    let hit := s.cfg.irqSources.dma = true ∧ k.attr.getLsbD 6 = true ∧ ∃ i, i < len ∧ BitVec.ofNat 20 (base + i) = k.irqa
    let hits :=
      if s.cfg.irqSources.dma = true ∧ k.attr.getLsbD 6 = true
      then (List.range len).countP fun i => BitVec.ofNat 20 (base + i) == k.irqa else 0
    k.dma.size ≠ 0 → k.dma.count - n.toNat ≤ 0 → k.dma.dir = .write → k.admas.getLsbD c.num = true →
    k.adma.left ≠ 0 →
    ∃ t, exec (.runDma c n) s = .next t ∧ SameOutsideEngine s t ∧
      (∀ i, i < len → ramRead t.engine.ram (BitVec.ofNat 20 (base + i)) =
        k.dma.hostWord (missingWords s) (k.dma.hostPos + i)) ∧
      (∀ i, i < len → k.dma.hostPos + i < k.dma.stream.length →
        ramRead t.engine.ram (BitVec.ofNat 20 (base + i)) = k.dma.stream.getD (k.dma.hostPos + i) 0) ∧
      (∀ b, ¬ (base ≤ b / 2 ∧ b / 2 < base + len) → readByte? t.engine.ram b = readByte? s.engine.ram b) ∧
      0x2000 + c.num * 0x400 ≤ base ∧ base + len ≤ 0x2400 + c.num * 0x400 ∧
      t.core c = { k with
        dma := { k.dma with
          size := k.dma.size - len, hostPos := k.dma.hostPos + len, count := s.cfg.dmaBurstCycles.val }
        adma :=
          if k.adma.left = 1 ∧ k.adma.pending = true then
            (if 32 < k.dma.size then ⟨16, !k.outPos.getLsbD 8, false⟩ else ⟨0, k.adma.half, false⟩)
          else { k.adma with left := k.adma.left - 1 } } ∧
      (∀ c', c' ≠ c → t.core c' = s.core c') ∧
      t.engine.log =
        (if k.dma.size ≤ 32 then [.dmaDone c] else []) ++ List.replicate hits (.irq c) ++ s.engine.log ∧
      (∀ c', t.engine.irqstat.cause c' = true ↔ s.engine.irqstat.cause c' = true ∨ c' = c ∧ hit) ∧
      t.engine.irqstat.half = s.engine.irqstat.half

/-- With Auto-DMA inactive, after DMAWR of 32*q words (q at least 1) and j calls of RUNDMA with enough cycles, j at most q: 32*(q-j) words remain, and the record has gained one DmaDone if j = q and none before. A further RUNDMA does nothing. (46_dma R417) -/
def Obligations.DmaWriteCompletes : Prop :=
  ∀ (c : CoreId) (q : Nat) (m : Half) (s : State),
    (s.core c).admas.getLsbD c.num = false → 1 ≤ q → 32 * q < 2 ^ 16 →
    s.cfg.dmaStartCycles.val ≤ m.toNat → s.cfg.dmaBurstCycles.val ≤ m.toNat →
    ∃ t0, exec (.dmaWr c (BitVec.ofNat 16 (32 * q))) s = .next t0 ∧
      (∀ j, j ≤ q → ∃ t, performTimes (.runDma c m) j t0 = some t ∧ (t.core c).dma.size = 32 * (q - j) ∧
        t.engine.log.count (.dmaDone c) = s.engine.log.count (.dmaDone c) + if j = q then 1 else 0) ∧
      ∃ t, performTimes (.runDma c m) q t0 = some t ∧ exec (.runDma c m) t = .next t

/-- RESET completes; every byte of RAM reads as before, no signal is raised, and every other element of the state has the value of the table of reset values: 0, or Write for the DMA direction, Stopped for the envelopes and empty for the sample queues. The parameters (log 1), the queued operations (log 5), the supplied words and the operation counter (log 6), the record (log 7) and the external samples (log 10) are the model's own fields, no elements of the block, and stay by the model's choice. (70_reset R470, 70_reset R471) -/
def Obligations.ResetState : Prop :=
  ∀ s : State, ∃ t, exec .reset s = .next t ∧ SameRam s t ∧ t.engine.log = s.engine.log ∧
    t.engine.irqstat = ⟨false, false, false⟩ ∧ t.spdif = ⟨0, 0, 0⟩ ∧ t.runAcc = 0 ∧ t.fault = ⟨none, false⟩ ∧
    t.cfg = s.cfg ∧ t.pending = s.pending ∧ t.supply = s.supply ∧ t.extIn = s.extIn ∧ t.opCount = s.opCount ∧
    ∀ c,
      let k := t.core c
      k.pmon = 0 ∧ k.non = 0 ∧ k.vmixl = 0 ∧ k.vmixel = 0 ∧ k.vmixr = 0 ∧ k.vmixer = 0 ∧ k.mmix = 0 ∧
      k.attr = 0 ∧ k.irqa = 0 ∧ k.kon = 0 ∧ k.koff = 0 ∧ k.tsa = 0 ∧ k.taddr = 0 ∧ k.admas = 0 ∧ k.endx = 0 ∧
      statxRead k.dma = 0x0080 ∧
      k.mvol = ⟨⟨0, 0, 0⟩, ⟨0, 0, 0⟩⟩ ∧ k.evol = ⟨0, 0⟩ ∧ k.avol = ⟨0, 0⟩ ∧ k.bvol = ⟨0, 0⟩ ∧
      k.esa = 0 ∧ k.eea = 0 ∧ (∀ o i, k.off o i = 0) ∧ (∀ n, k.coef n = 0) ∧
      k.rvb.pos = 0 ∧ k.rvb.phase = .left ∧
      (∀ ch, (k.rvb.down.get ch).toList = List.replicate 39 0 ∧ (k.rvb.up.get ch).toList = List.replicate 39 0) ∧
      k.noise = ⟨0, 0⟩ ∧ k.outPos = 0 ∧ k.dma.dir = .write ∧ k.dma.size = 0 ∧ k.dma.count = 0 ∧
      k.dma.hostPos = 0 ∧ k.adma = ⟨0, false, false⟩ ∧
      ∀ v,
        let w := k.voice v
        w.vol = ⟨⟨0, 0, 0⟩, ⟨0, 0, 0⟩⟩ ∧ w.pitch = 0 ∧ w.adsr1 = 0 ∧ w.adsr2 = 0 ∧ w.ssa = 0 ∧ w.lsa = 0 ∧
        w.nax = 0 ∧ w.hist1 = 0 ∧ w.hist2 = 0 ∧ w.hdr = 0 ∧ w.customLoop = false ∧ w.buf = [] ∧
        w.counter = 0 ∧ w.env = ⟨.stopped, 0, 0⟩ ∧ w.out = 0

/-- The block as constructed, with any parameters, meets the invariant of the machine; so does State.reset. (70_reset R471, 10_state R23, 10_state R46, 42_adpcm R263, 45_mixer R380, 46_dma R411) -/
def Obligations.ResetMeetsTheInvariant : Prop :=
  (∀ cfg : Config, (State.powerOn cfg).Inv) ∧ State.reset.Inv

/-- From every state that meets it, every step that answers a next state leads to one that meets it: the RAM keeps its canonical form; every envelope level is within 0..0x7FFF with its fraction below 2^F and Stopped means silent; volume fractions stay below 2^F; no sample queue exceeds 19; moved and remaining DMA words stay within 65535 and the countdown at or above 0; without Auto-DMA no sequence is in flight, and a refill is remembered only while one drains; the noise timer is not negative; both positions move in lockstep and the half bit is bit 8 of them; the cycle accumulator stays below a quantum. (10_state R23, 10_state R46, 10_state R47, 41_envelope R225, 42_adpcm R263, 45_mixer R380, 46_dma R405, 46_dma R411, 46_dma R413, 60_exceptions R448) -/
def Obligations.StepKeepsTheInvariant : Prop :=
  ∀ s t : State, s.Inv → step s = .next t → t.Inv
end

