-- ==== Sys2Proof/Laws/Memory.lean ====
section
/-! SUPPORT. The laws of the RAM: read after write, and the canonical form. -/

namespace Sys2Proof.Machine

/-! ## Bytes -/

@[simp] theorem readByte_writeByte_same (m : Memory) (a : Nat) (b : Byte) :
    readByte? (writeByte m a b) a = some b := by
  induction m with
  | nil => simp [writeByte, readByte?]
  | cons h m ih =>
    obtain ⟨k, x⟩ := h
    unfold writeByte
    split
    · simp [readByte?]
    · split
      · simp [readByte?]
      · next hne => simp [readByte?, Ne.symm hne, ih]

theorem readByte_writeByte_other (m : Memory) {a a' : Nat} (b : Byte) (h : a' ≠ a) :
    readByte? (writeByte m a b) a' = readByte? m a' := by
  induction m with
  | nil => simp [writeByte, readByte?, Ne.symm h]
  | cons hd m ih =>
    obtain ⟨k, x⟩ := hd
    unfold writeByte
    split
    · simp [readByte?, Ne.symm h]
    · split
      · next hk => subst hk; simp [readByte?, Ne.symm h]
      · simp [readByte?, ih]

@[simp] theorem byteAt_writeByte_same (m : Memory) (a : Nat) (b : Byte) : byteAt (writeByte m a b) a = b := by
  simp [byteAt]

theorem byteAt_writeByte_other (m : Memory) {a a' : Nat} (b : Byte) (h : a' ≠ a) :
    byteAt (writeByte m a b) a' = byteAt m a' := by
  simp [byteAt, readByte_writeByte_other m b h]

/-! ## Canonical form -/

theorem memory_wf_head {a : Nat} {x : Byte} {m : Memory} (h : Memory.wf ((a, x) :: m) = true) :
    a < ramBytes := by
  induction m generalizing a x with
  | nil => simpa [Memory.wf] using h
  | cons hd m ih =>
    simp only [Memory.wf, Bool.and_eq_true, decide_eq_true_eq] at h
    exact Nat.lt_trans h.1 (ih h.2)

/-- The first address is inside the RAM and below every later one. -/
theorem memory_wf_cons (a : Nat) (x : Byte) (m : Memory) :
    Memory.wf ((a, x) :: m) = true ↔
      a < ramBytes ∧ Memory.wf m = true ∧ ∀ k y m', m = (k, y) :: m' → a < k := by
  constructor
  · intro h
    refine ⟨memory_wf_head h, ?_⟩
    cases m with
    | nil => simp [Memory.wf]
    | cons hd m =>
      simp only [Memory.wf, Bool.and_eq_true, decide_eq_true_eq] at h
      exact ⟨h.2, by rintro _ _ _ ⟨rfl, rfl⟩; exact h.1⟩
  · rintro ⟨h1, h2, h3⟩
    cases m with
    | nil => simpa [Memory.wf] using h1
    | cons hd m => simpa [Memory.wf] using ⟨h3 hd.1 hd.2 m rfl, h2⟩

theorem writeByte_head (m : Memory) (a : Nat) (b : Byte) {k : Nat} {y : Byte} {m' : Memory}
    (h : writeByte m a b = (k, y) :: m') : k = a ∨ ∃ y' m'', m = (k, y') :: m'' := by
  cases m with
  | nil => simp [writeByte] at h; exact .inl h.1.1.symm
  | cons hd m =>
    obtain ⟨k', x⟩ := hd
    unfold writeByte at h
    split at h
    · simp at h; exact .inl h.1.1.symm
    · split at h
      · simp at h; exact .inl h.1.1.symm
      · simp at h; exact .inr ⟨x, m, by rw [h.1.1]⟩

/-- A byte write keeps the canonical form. -/
theorem writeByte_wf {m : Memory} {a : Nat} (b : Byte) (hm : Memory.wf m = true) (ha : a < ramBytes) :
    Memory.wf (writeByte m a b) = true := by
  induction m with
  | nil => simpa [writeByte, Memory.wf] using ha
  | cons hd m ih =>
    obtain ⟨k, x⟩ := hd
    have hm' := (memory_wf_cons k x m).1 hm
    unfold writeByte
    split
    · next hlt => exact (memory_wf_cons _ _ _).2 ⟨ha, hm, by rintro _ _ _ ⟨rfl, rfl⟩; exact hlt⟩
    · split
      · next heq => subst heq; exact (memory_wf_cons _ _ _).2 hm'
      · next h1 h2 =>
        refine (memory_wf_cons _ _ _).2 ⟨hm'.1, ih hm'.2.1, fun k' y m' hw => ?_⟩
        rcases writeByte_head m a b hw with rfl | ⟨y', m'', rfl⟩
        · omega
        · exact hm'.2.2 _ _ _ rfl

/-! ## Words -/

theorem lowByteAddr_lt (a : RamAddr) : lowByteAddr a + 1 < ramBytes := by
  have := a.isLt
  simp only [lowByteAddr, ramBytes]
  omega

theorem lowByteAddr_ne {a a' : RamAddr} (h : a' ≠ a) : a'.toNat ≠ a.toNat := fun h' =>
  h (BitVec.eq_of_toNat_eq h')

/-- A word write keeps the canonical form. -/
theorem ramWrite_wf {m : Memory} (a : RamAddr) (d : Half) (hm : Memory.wf m = true) :
    Memory.wf (ramWrite m a d) = true := by
  have := lowByteAddr_lt a
  exact writeByte_wf _ (writeByte_wf _ hm (by omega)) (by omega)

theorem extractLsb_append_halves (d : Half) : d.extractLsb' 8 8 ++ d.extractLsb' 0 8 = d := by
  apply BitVec.eq_of_toNat_eq
  have := d.isLt
  simp only [BitVec.toNat_append, BitVec.extractLsb'_toNat, Nat.shiftRight_eq_div_pow]
  rw [← Nat.shiftLeft_add_eq_or_of_lt (by omega), Nat.shiftLeft_eq]
  omega

@[simp] theorem ramRead_ramWrite_same (m : Memory) (a : RamAddr) (d : Half) :
    ramRead (ramWrite m a d) a = d := by
  have h : lowByteAddr a ≠ lowByteAddr a + 1 := by omega
  simp only [ramRead, ramWrite, byteAt_writeByte_same, byteAt_writeByte_other _ _ h]
  exact extractLsb_append_halves d

/-- A byte outside the two bytes of the word keeps what it was. -/
theorem readByte_ramWrite_other (m : Memory) (a : RamAddr) (d : Half) {b : Nat} (h : b / 2 ≠ a.toNat) :
    readByte? (ramWrite m a d) b = readByte? m b := by
  have h1 : b ≠ lowByteAddr a + 1 := by simp only [lowByteAddr]; omega
  have h2 : b ≠ lowByteAddr a := by simp only [lowByteAddr]; omega
  simp only [ramWrite, readByte_writeByte_other _ _ h1, readByte_writeByte_other _ _ h2]

theorem ramRead_ramWrite_other (m : Memory) {a a' : RamAddr} (d : Half) (h : a' ≠ a) :
    ramRead (ramWrite m a d) a' = ramRead m a' := by
  have hn := lowByteAddr_ne h
  have h1 : (lowByteAddr a' + 1) / 2 ≠ a.toNat := by simp only [lowByteAddr]; omega
  have h2 : lowByteAddr a' / 2 ≠ a.toNat := by simp only [lowByteAddr]; omega
  simp only [ramRead, byteAt, readByte_ramWrite_other _ _ _ h1, readByte_ramWrite_other _ _ _ h2]

end Sys2Proof.Machine
end

