-- ==== Sys2Proof/Laws/State.lean ====
section
/-! SUPPORT. One lemma per field per update of the state, so that no proof unfolds a record update. -/

namespace Sys2Proof.Machine

/-! ## Pairs -/

@[simp] theorem pair_get_set_same {α : Type} (p : Pair α) (ch : Side) (x : α) : (p.set ch x).get ch = x := by
  cases ch <;> rfl

theorem pair_get_set_other {α : Type} (p : Pair α) {ch ch' : Side} (x : α) (h : ch' ≠ ch) :
    (p.set ch x).get ch' = p.get ch' := by
  cases ch <;> cases ch' <;> first | rfl | exact absurd rfl h

/-! ## `Engine.updCore` -/

@[simp] theorem engine_updCore_core_same (e : Engine) (c : CoreId) (f : Core → Core) :
    (e.updCore c f).core c = f (e.core c) := by
  cases c <;> rfl

theorem engine_updCore_core_other (e : Engine) {c c' : CoreId} (f : Core → Core) (h : c' ≠ c) :
    (e.updCore c f).core c' = e.core c' := by
  cases c <;> cases c' <;> first | rfl | exact absurd rfl h

@[simp] theorem engine_updCore_ram (e : Engine) (c : CoreId) (f : Core → Core) :
    (e.updCore c f).ram = e.ram :=
  by cases c <;> rfl
@[simp] theorem engine_updCore_irqstat (e : Engine) (c : CoreId) (f : Core → Core) :
    (e.updCore c f).irqstat = e.irqstat :=
  by cases c <;> rfl
@[simp] theorem engine_updCore_log (e : Engine) (c : CoreId) (f : Core → Core) :
    (e.updCore c f).log = e.log :=
  by cases c <;> rfl

theorem engine_ext_cores {e e' : Engine} (hr : e.ram = e'.ram) (hi : e.irqstat = e'.irqstat)
    (hl : e.log = e'.log) (hc : ∀ c, e.core c = e'.core c) : e = e' := by
  have h0 := hc .core0
  have h1 := hc .core1
  cases e
  cases e'
  simp_all [Engine.core]

theorem engine_updCore_updCore (e : Engine) (c : CoreId) (f g : Core → Core) :
    (e.updCore c f).updCore c g = e.updCore c fun k => g (f k) := by
  cases c <;> rfl

/-! ## Other updates of the engine -/

@[simp] theorem engine_store_irqstat (e : Engine) (a : RamAddr) (d : Half) :
    (e.store a d).irqstat = e.irqstat := rfl
@[simp] theorem engine_store_core0 (e : Engine) (a : RamAddr) (d : Half) : (e.store a d).core0 = e.core0 := rfl
@[simp] theorem engine_store_core1 (e : Engine) (a : RamAddr) (d : Half) : (e.store a d).core1 = e.core1 := rfl
@[simp] theorem engine_store_log (e : Engine) (a : RamAddr) (d : Half) : (e.store a d).log = e.log := rfl
@[simp] theorem engine_store_core (e : Engine) (a : RamAddr) (d : Half) (c : CoreId) :
    (e.store a d).core c = e.core c :=
  by cases c <;> rfl
@[simp] theorem engine_emit_irqstat (e : Engine) (x : Event) : (e.emit x).irqstat = e.irqstat := rfl
@[simp] theorem engine_emit_core0 (e : Engine) (x : Event) : (e.emit x).core0 = e.core0 := rfl
@[simp] theorem engine_emit_core1 (e : Engine) (x : Event) : (e.emit x).core1 = e.core1 := rfl
@[simp] theorem engine_emit_ram (e : Engine) (x : Event) : (e.emit x).ram = e.ram := rfl
@[simp] theorem engine_emit_core (e : Engine) (x : Event) (c : CoreId) : (e.emit x).core c = e.core c :=
  by cases c <;> rfl
@[simp] theorem engine_store_ram (e : Engine) (a : RamAddr) (d : Half) :
    (e.store a d).ram = ramWrite e.ram a d := rfl
@[simp] theorem engine_emit_log (e : Engine) (x : Event) : (e.emit x).log = x :: e.log := rfl
@[simp] theorem raiseIrq_ram (c : CoreId) (e : Engine) : (raiseIrq c e).ram = e.ram := rfl
@[simp] theorem raiseIrq_core (c c' : CoreId) (e : Engine) : (raiseIrq c e).core c' = e.core c' :=
  by cases c' <;> rfl
@[simp] theorem acknowledgeIrq_ram (c : CoreId) (e : Engine) : (acknowledgeIrq c e).ram = e.ram := rfl
@[simp] theorem acknowledgeIrq_core (c c' : CoreId) (e : Engine) : (acknowledgeIrq c e).core c' = e.core c' :=
  by cases c' <;> rfl
@[simp] theorem raiseDmaDone_ram (c : CoreId) (e : Engine) : (raiseDmaDone c e).ram = e.ram := rfl
@[simp] theorem raiseDmaDone_core (c c' : CoreId) (e : Engine) : (raiseDmaDone c e).core c' = e.core c' :=
  by cases c' <;> rfl
@[simp] theorem raiseIrq_irqstat (c : CoreId) (e : Engine) :
    (raiseIrq c e).irqstat = e.irqstat.setCause c true := rfl
@[simp] theorem acknowledgeIrq_irqstat (c : CoreId) (e : Engine) :
    (acknowledgeIrq c e).irqstat = e.irqstat.setCause c false := rfl
@[simp] theorem raiseDmaDone_irqstat (c : CoreId) (e : Engine) : (raiseDmaDone c e).irqstat = e.irqstat := rfl
@[simp] theorem raiseIrq_log (c : CoreId) (e : Engine) : (raiseIrq c e).log = .irq c :: e.log := rfl
@[simp] theorem acknowledgeIrq_log (c : CoreId) (e : Engine) : (acknowledgeIrq c e).log = e.log := rfl
@[simp] theorem raiseDmaDone_log (c : CoreId) (e : Engine) : (raiseDmaDone c e).log = .dmaDone c :: e.log := rfl

/-! ## The interrupt status -/

@[simp] theorem irqStat_cause_setCause_same (s : IrqStat) (c : CoreId) (b : Bool) :
    (s.setCause c b).cause c = b := by
  cases c <;> rfl

theorem irqStat_cause_setCause_other (s : IrqStat) {c c' : CoreId} (b : Bool) (h : c' ≠ c) :
    (s.setCause c b).cause c' = s.cause c' := by
  cases c <;> cases c' <;> first | rfl | exact absurd rfl h

@[simp] theorem irqStat_setCause_half (s : IrqStat) (c : CoreId) (b : Bool) :
    (s.setCause c b).half = s.half :=
  by cases c <;> rfl

/-! ## The state -/

@[simp] theorem state_updCore_cfg (s : State) (c : CoreId) (f : Core → Core) : (s.updCore c f).cfg = s.cfg := rfl
@[simp] theorem state_updVoice_cfg (s : State) (c : CoreId) (v : VoiceId) (f : Voice → Voice) :
    (s.updVoice c v f).cfg = s.cfg := rfl
@[simp] theorem state_emit_cfg (s : State) (x : Event) : (s.emit x).cfg = s.cfg := rfl
@[simp] theorem state_updCore_spdif (s : State) (c : CoreId) (f : Core → Core) :
    (s.updCore c f).spdif = s.spdif := rfl
@[simp] theorem state_updVoice_spdif (s : State) (c : CoreId) (v : VoiceId) (f : Voice → Voice) :
    (s.updVoice c v f).spdif = s.spdif := rfl
@[simp] theorem state_emit_spdif (s : State) (x : Event) : (s.emit x).spdif = s.spdif := rfl
@[simp] theorem state_updCore_runAcc (s : State) (c : CoreId) (f : Core → Core) :
    (s.updCore c f).runAcc = s.runAcc := rfl
@[simp] theorem state_updVoice_runAcc (s : State) (c : CoreId) (v : VoiceId) (f : Voice → Voice) :
    (s.updVoice c v f).runAcc = s.runAcc := rfl
@[simp] theorem state_emit_runAcc (s : State) (x : Event) : (s.emit x).runAcc = s.runAcc := rfl
@[simp] theorem state_updCore_fault (s : State) (c : CoreId) (f : Core → Core) :
    (s.updCore c f).fault = s.fault := rfl
@[simp] theorem state_updVoice_fault (s : State) (c : CoreId) (v : VoiceId) (f : Voice → Voice) :
    (s.updVoice c v f).fault = s.fault := rfl
@[simp] theorem state_emit_fault (s : State) (x : Event) : (s.emit x).fault = s.fault := rfl
@[simp] theorem state_updCore_pending (s : State) (c : CoreId) (f : Core → Core) :
    (s.updCore c f).pending = s.pending := rfl
@[simp] theorem state_updVoice_pending (s : State) (c : CoreId) (v : VoiceId) (f : Voice → Voice) :
    (s.updVoice c v f).pending = s.pending := rfl
@[simp] theorem state_emit_pending (s : State) (x : Event) : (s.emit x).pending = s.pending := rfl
@[simp] theorem state_updCore_supply (s : State) (c : CoreId) (f : Core → Core) :
    (s.updCore c f).supply = s.supply := rfl
@[simp] theorem state_updVoice_supply (s : State) (c : CoreId) (v : VoiceId) (f : Voice → Voice) :
    (s.updVoice c v f).supply = s.supply := rfl
@[simp] theorem state_emit_supply (s : State) (x : Event) : (s.emit x).supply = s.supply := rfl
@[simp] theorem state_updCore_extIn (s : State) (c : CoreId) (f : Core → Core) :
    (s.updCore c f).extIn = s.extIn := rfl
@[simp] theorem state_updVoice_extIn (s : State) (c : CoreId) (v : VoiceId) (f : Voice → Voice) :
    (s.updVoice c v f).extIn = s.extIn := rfl
@[simp] theorem state_emit_extIn (s : State) (x : Event) : (s.emit x).extIn = s.extIn := rfl
@[simp] theorem state_updCore_opCount (s : State) (c : CoreId) (f : Core → Core) :
    (s.updCore c f).opCount = s.opCount := rfl
@[simp] theorem state_updVoice_opCount (s : State) (c : CoreId) (v : VoiceId) (f : Voice → Voice) :
    (s.updVoice c v f).opCount = s.opCount := rfl
@[simp] theorem state_emit_opCount (s : State) (x : Event) : (s.emit x).opCount = s.opCount := rfl
@[simp] theorem state_updCore_engine (s : State) (c : CoreId) (f : Core → Core) :
    (s.updCore c f).engine = s.engine.updCore c f := rfl
@[simp] theorem state_updVoice_engine (s : State) (c : CoreId) (v : VoiceId) (f : Voice → Voice) :
    (s.updVoice c v f).engine = s.engine.updCore c fun k => k.updVoice v f := rfl
@[simp] theorem state_emit_engine (s : State) (x : Event) : (s.emit x).engine = s.engine.emit x := rfl
@[simp] theorem state_updCore_core_same (s : State) (c : CoreId) (f : Core → Core) :
    (s.updCore c f).core c = f (s.core c) :=
  engine_updCore_core_same ..

theorem state_updCore_core_other (s : State) {c c' : CoreId} (f : Core → Core) (h : c' ≠ c) :
    (s.updCore c f).core c' = s.core c' :=
  engine_updCore_core_other _ _ h

@[simp] theorem state_updVoice_core_same (s : State) (c : CoreId) (v : VoiceId) (f : Voice → Voice) :
    (s.updVoice c v f).core c = (s.core c).updVoice v f :=
  engine_updCore_core_same ..

theorem state_updVoice_core_other (s : State) {c c' : CoreId} (v : VoiceId) (f : Voice → Voice)
    (h : c' ≠ c) : (s.updVoice c v f).core c' = s.core c' :=
  engine_updCore_core_other _ _ h

@[simp] theorem state_emit_core (s : State) (x : Event) (c : CoreId) : (s.emit x).core c = s.core c := by
  cases c <;> rfl

@[simp] theorem recordUnmapped_cfg (ra : Half) (w : Bool) (s : State) : (recordUnmapped ra w s).cfg = s.cfg := rfl
@[simp] theorem recordUnmapped_engine (ra : Half) (w : Bool) (s : State) :
    (recordUnmapped ra w s).engine = s.engine := rfl
@[simp] theorem recordUnmapped_spdif (ra : Half) (w : Bool) (s : State) :
    (recordUnmapped ra w s).spdif = s.spdif := rfl
@[simp] theorem recordUnmapped_runAcc (ra : Half) (w : Bool) (s : State) :
    (recordUnmapped ra w s).runAcc = s.runAcc := rfl
@[simp] theorem recordUnmapped_fault (ra : Half) (w : Bool) (s : State) :
    (recordUnmapped ra w s).fault = { s.fault with unmapped := some ⟨ra, w⟩ } := rfl
@[simp] theorem recordUnmapped_pending (ra : Half) (w : Bool) (s : State) :
    (recordUnmapped ra w s).pending = s.pending := rfl
@[simp] theorem recordUnmapped_supply (ra : Half) (w : Bool) (s : State) :
    (recordUnmapped ra w s).supply = s.supply := rfl
@[simp] theorem recordUnmapped_extIn (ra : Half) (w : Bool) (s : State) :
    (recordUnmapped ra w s).extIn = s.extIn := rfl
@[simp] theorem recordUnmapped_opCount (ra : Half) (w : Bool) (s : State) :
    (recordUnmapped ra w s).opCount = s.opCount := rfl
@[simp] theorem state_accept_cfg (s : State) (t : Transaction) (rest : List Transaction) :
    (s.accept t rest).cfg = s.cfg := rfl
@[simp] theorem state_accept_engine (s : State) (t : Transaction) (rest : List Transaction) :
    (s.accept t rest).engine = s.engine.emit (.operation t.word) := rfl
@[simp] theorem state_accept_spdif (s : State) (t : Transaction) (rest : List Transaction) :
    (s.accept t rest).spdif = s.spdif := rfl
@[simp] theorem state_accept_runAcc (s : State) (t : Transaction) (rest : List Transaction) :
    (s.accept t rest).runAcc = s.runAcc := rfl
@[simp] theorem state_accept_fault (s : State) (t : Transaction) (rest : List Transaction) :
    (s.accept t rest).fault = s.fault := rfl
@[simp] theorem state_accept_pending (s : State) (t : Transaction) (rest : List Transaction) :
    (s.accept t rest).pending = rest := rfl
@[simp] theorem state_accept_supply (s : State) (t : Transaction) (rest : List Transaction) :
    (s.accept t rest).supply = t.supply := rfl
@[simp] theorem state_accept_extIn (s : State) (t : Transaction) (rest : List Transaction) :
    (s.accept t rest).extIn = s.extIn := rfl
@[simp] theorem state_accept_opCount (s : State) (t : Transaction) (rest : List Transaction) :
    (s.accept t rest).opCount = s.opCount + 1 := rfl
@[simp] theorem state_accept_core (s : State) (t : Transaction) (rest : List Transaction) (c : CoreId) :
    (s.accept t rest).core c = s.core c :=
  by cases c <;> rfl

/-! ## `Core.updVoice` -/

@[simp] theorem core_updVoice_pmon (k : Core) (v : VoiceId) (f : Voice → Voice) :
    (k.updVoice v f).pmon = k.pmon := rfl
@[simp] theorem core_updVoice_non (k : Core) (v : VoiceId) (f : Voice → Voice) :
    (k.updVoice v f).non = k.non := rfl
@[simp] theorem core_updVoice_vmixl (k : Core) (v : VoiceId) (f : Voice → Voice) :
    (k.updVoice v f).vmixl = k.vmixl := rfl
@[simp] theorem core_updVoice_vmixel (k : Core) (v : VoiceId) (f : Voice → Voice) :
    (k.updVoice v f).vmixel = k.vmixel := rfl
@[simp] theorem core_updVoice_vmixr (k : Core) (v : VoiceId) (f : Voice → Voice) :
    (k.updVoice v f).vmixr = k.vmixr := rfl
@[simp] theorem core_updVoice_vmixer (k : Core) (v : VoiceId) (f : Voice → Voice) :
    (k.updVoice v f).vmixer = k.vmixer := rfl
@[simp] theorem core_updVoice_mmix (k : Core) (v : VoiceId) (f : Voice → Voice) :
    (k.updVoice v f).mmix = k.mmix := rfl
@[simp] theorem core_updVoice_attr (k : Core) (v : VoiceId) (f : Voice → Voice) :
    (k.updVoice v f).attr = k.attr := rfl
@[simp] theorem core_updVoice_irqa (k : Core) (v : VoiceId) (f : Voice → Voice) :
    (k.updVoice v f).irqa = k.irqa := rfl
@[simp] theorem core_updVoice_kon (k : Core) (v : VoiceId) (f : Voice → Voice) :
    (k.updVoice v f).kon = k.kon := rfl
@[simp] theorem core_updVoice_koff (k : Core) (v : VoiceId) (f : Voice → Voice) :
    (k.updVoice v f).koff = k.koff := rfl
@[simp] theorem core_updVoice_tsa (k : Core) (v : VoiceId) (f : Voice → Voice) :
    (k.updVoice v f).tsa = k.tsa := rfl
@[simp] theorem core_updVoice_taddr (k : Core) (v : VoiceId) (f : Voice → Voice) :
    (k.updVoice v f).taddr = k.taddr := rfl
@[simp] theorem core_updVoice_admas (k : Core) (v : VoiceId) (f : Voice → Voice) :
    (k.updVoice v f).admas = k.admas := rfl
@[simp] theorem core_updVoice_endx (k : Core) (v : VoiceId) (f : Voice → Voice) :
    (k.updVoice v f).endx = k.endx := rfl
@[simp] theorem core_updVoice_mvol (k : Core) (v : VoiceId) (f : Voice → Voice) :
    (k.updVoice v f).mvol = k.mvol := rfl
@[simp] theorem core_updVoice_evol (k : Core) (v : VoiceId) (f : Voice → Voice) :
    (k.updVoice v f).evol = k.evol := rfl
@[simp] theorem core_updVoice_avol (k : Core) (v : VoiceId) (f : Voice → Voice) :
    (k.updVoice v f).avol = k.avol := rfl
@[simp] theorem core_updVoice_bvol (k : Core) (v : VoiceId) (f : Voice → Voice) :
    (k.updVoice v f).bvol = k.bvol := rfl
@[simp] theorem core_updVoice_esa (k : Core) (v : VoiceId) (f : Voice → Voice) :
    (k.updVoice v f).esa = k.esa := rfl
@[simp] theorem core_updVoice_eea (k : Core) (v : VoiceId) (f : Voice → Voice) :
    (k.updVoice v f).eea = k.eea := rfl
@[simp] theorem core_updVoice_offs (k : Core) (v : VoiceId) (f : Voice → Voice) :
    (k.updVoice v f).offs = k.offs := rfl
@[simp] theorem core_updVoice_coefs (k : Core) (v : VoiceId) (f : Voice → Voice) :
    (k.updVoice v f).coefs = k.coefs := rfl
@[simp] theorem core_updVoice_rvb (k : Core) (v : VoiceId) (f : Voice → Voice) :
    (k.updVoice v f).rvb = k.rvb := rfl
@[simp] theorem core_updVoice_noise (k : Core) (v : VoiceId) (f : Voice → Voice) :
    (k.updVoice v f).noise = k.noise := rfl
@[simp] theorem core_updVoice_outPos (k : Core) (v : VoiceId) (f : Voice → Voice) :
    (k.updVoice v f).outPos = k.outPos := rfl
@[simp] theorem core_updVoice_dma (k : Core) (v : VoiceId) (f : Voice → Voice) :
    (k.updVoice v f).dma = k.dma := rfl
@[simp] theorem core_updVoice_adma (k : Core) (v : VoiceId) (f : Voice → Voice) :
    (k.updVoice v f).adma = k.adma := rfl
@[simp] theorem core_updVoice_voice_same (k : Core) (v : VoiceId) (f : Voice → Voice) :
    (k.updVoice v f).voice v = f (k.voice v) := by
  simp [Core.updVoice, Core.voice]

theorem core_updVoice_voice_other (k : Core) {v v' : VoiceId} (f : Voice → Voice) (h : v' ≠ v) :
    (k.updVoice v f).voice v' = k.voice v' := by
  have hv : v.val ≠ v'.val := fun h' => h (Fin.ext h'.symm)
  simp [Core.updVoice, Core.voice, hv]

/-! ## Flags -/

@[simp] theorem core_setEndx_pmon (k : Core) (v : VoiceId) : (k.setEndx v).pmon = k.pmon := rfl
@[simp] theorem core_setEndx_non (k : Core) (v : VoiceId) : (k.setEndx v).non = k.non := rfl
@[simp] theorem core_setEndx_vmixl (k : Core) (v : VoiceId) : (k.setEndx v).vmixl = k.vmixl := rfl
@[simp] theorem core_setEndx_vmixel (k : Core) (v : VoiceId) : (k.setEndx v).vmixel = k.vmixel := rfl
@[simp] theorem core_setEndx_vmixr (k : Core) (v : VoiceId) : (k.setEndx v).vmixr = k.vmixr := rfl
@[simp] theorem core_setEndx_vmixer (k : Core) (v : VoiceId) : (k.setEndx v).vmixer = k.vmixer := rfl
@[simp] theorem core_setEndx_mmix (k : Core) (v : VoiceId) : (k.setEndx v).mmix = k.mmix := rfl
@[simp] theorem core_setEndx_attr (k : Core) (v : VoiceId) : (k.setEndx v).attr = k.attr := rfl
@[simp] theorem core_setEndx_irqa (k : Core) (v : VoiceId) : (k.setEndx v).irqa = k.irqa := rfl
@[simp] theorem core_setEndx_kon (k : Core) (v : VoiceId) : (k.setEndx v).kon = k.kon := rfl
@[simp] theorem core_setEndx_koff (k : Core) (v : VoiceId) : (k.setEndx v).koff = k.koff := rfl
@[simp] theorem core_setEndx_tsa (k : Core) (v : VoiceId) : (k.setEndx v).tsa = k.tsa := rfl
@[simp] theorem core_setEndx_taddr (k : Core) (v : VoiceId) : (k.setEndx v).taddr = k.taddr := rfl
@[simp] theorem core_setEndx_admas (k : Core) (v : VoiceId) : (k.setEndx v).admas = k.admas := rfl
@[simp] theorem core_setEndx_mvol (k : Core) (v : VoiceId) : (k.setEndx v).mvol = k.mvol := rfl
@[simp] theorem core_setEndx_evol (k : Core) (v : VoiceId) : (k.setEndx v).evol = k.evol := rfl
@[simp] theorem core_setEndx_avol (k : Core) (v : VoiceId) : (k.setEndx v).avol = k.avol := rfl
@[simp] theorem core_setEndx_bvol (k : Core) (v : VoiceId) : (k.setEndx v).bvol = k.bvol := rfl
@[simp] theorem core_setEndx_esa (k : Core) (v : VoiceId) : (k.setEndx v).esa = k.esa := rfl
@[simp] theorem core_setEndx_eea (k : Core) (v : VoiceId) : (k.setEndx v).eea = k.eea := rfl
@[simp] theorem core_setEndx_offs (k : Core) (v : VoiceId) : (k.setEndx v).offs = k.offs := rfl
@[simp] theorem core_setEndx_coefs (k : Core) (v : VoiceId) : (k.setEndx v).coefs = k.coefs := rfl
@[simp] theorem core_setEndx_rvb (k : Core) (v : VoiceId) : (k.setEndx v).rvb = k.rvb := rfl
@[simp] theorem core_setEndx_noise (k : Core) (v : VoiceId) : (k.setEndx v).noise = k.noise := rfl
@[simp] theorem core_setEndx_outPos (k : Core) (v : VoiceId) : (k.setEndx v).outPos = k.outPos := rfl
@[simp] theorem core_setEndx_dma (k : Core) (v : VoiceId) : (k.setEndx v).dma = k.dma := rfl
@[simp] theorem core_setEndx_adma (k : Core) (v : VoiceId) : (k.setEndx v).adma = k.adma := rfl
@[simp] theorem core_setEndx_voices (k : Core) (v : VoiceId) : (k.setEndx v).voices = k.voices := rfl
@[simp] theorem core_setEndx_voice (k : Core) (v : VoiceId) (v' : VoiceId) :
    (k.setEndx v).voice v' = k.voice v' := rfl
@[simp] theorem core_clearEndx_pmon (k : Core) (v : VoiceId) : (k.clearEndx v).pmon = k.pmon := rfl
@[simp] theorem core_clearEndx_non (k : Core) (v : VoiceId) : (k.clearEndx v).non = k.non := rfl
@[simp] theorem core_clearEndx_vmixl (k : Core) (v : VoiceId) : (k.clearEndx v).vmixl = k.vmixl := rfl
@[simp] theorem core_clearEndx_vmixel (k : Core) (v : VoiceId) : (k.clearEndx v).vmixel = k.vmixel := rfl
@[simp] theorem core_clearEndx_vmixr (k : Core) (v : VoiceId) : (k.clearEndx v).vmixr = k.vmixr := rfl
@[simp] theorem core_clearEndx_vmixer (k : Core) (v : VoiceId) : (k.clearEndx v).vmixer = k.vmixer := rfl
@[simp] theorem core_clearEndx_mmix (k : Core) (v : VoiceId) : (k.clearEndx v).mmix = k.mmix := rfl
@[simp] theorem core_clearEndx_attr (k : Core) (v : VoiceId) : (k.clearEndx v).attr = k.attr := rfl
@[simp] theorem core_clearEndx_irqa (k : Core) (v : VoiceId) : (k.clearEndx v).irqa = k.irqa := rfl
@[simp] theorem core_clearEndx_kon (k : Core) (v : VoiceId) : (k.clearEndx v).kon = k.kon := rfl
@[simp] theorem core_clearEndx_koff (k : Core) (v : VoiceId) : (k.clearEndx v).koff = k.koff := rfl
@[simp] theorem core_clearEndx_tsa (k : Core) (v : VoiceId) : (k.clearEndx v).tsa = k.tsa := rfl
@[simp] theorem core_clearEndx_taddr (k : Core) (v : VoiceId) : (k.clearEndx v).taddr = k.taddr := rfl
@[simp] theorem core_clearEndx_admas (k : Core) (v : VoiceId) : (k.clearEndx v).admas = k.admas := rfl
@[simp] theorem core_clearEndx_mvol (k : Core) (v : VoiceId) : (k.clearEndx v).mvol = k.mvol := rfl
@[simp] theorem core_clearEndx_evol (k : Core) (v : VoiceId) : (k.clearEndx v).evol = k.evol := rfl
@[simp] theorem core_clearEndx_avol (k : Core) (v : VoiceId) : (k.clearEndx v).avol = k.avol := rfl
@[simp] theorem core_clearEndx_bvol (k : Core) (v : VoiceId) : (k.clearEndx v).bvol = k.bvol := rfl
@[simp] theorem core_clearEndx_esa (k : Core) (v : VoiceId) : (k.clearEndx v).esa = k.esa := rfl
@[simp] theorem core_clearEndx_eea (k : Core) (v : VoiceId) : (k.clearEndx v).eea = k.eea := rfl
@[simp] theorem core_clearEndx_offs (k : Core) (v : VoiceId) : (k.clearEndx v).offs = k.offs := rfl
@[simp] theorem core_clearEndx_coefs (k : Core) (v : VoiceId) : (k.clearEndx v).coefs = k.coefs := rfl
@[simp] theorem core_clearEndx_rvb (k : Core) (v : VoiceId) : (k.clearEndx v).rvb = k.rvb := rfl
@[simp] theorem core_clearEndx_noise (k : Core) (v : VoiceId) : (k.clearEndx v).noise = k.noise := rfl
@[simp] theorem core_clearEndx_outPos (k : Core) (v : VoiceId) : (k.clearEndx v).outPos = k.outPos := rfl
@[simp] theorem core_clearEndx_dma (k : Core) (v : VoiceId) : (k.clearEndx v).dma = k.dma := rfl
@[simp] theorem core_clearEndx_adma (k : Core) (v : VoiceId) : (k.clearEndx v).adma = k.adma := rfl
@[simp] theorem core_clearEndx_voices (k : Core) (v : VoiceId) : (k.clearEndx v).voices = k.voices := rfl
@[simp] theorem core_clearEndx_voice (k : Core) (v : VoiceId) (v' : VoiceId) :
    (k.clearEndx v).voice v' = k.voice v' := rfl
@[simp] theorem core_clearAllEndx_pmon (k : Core) : (k.clearAllEndx).pmon = k.pmon := rfl
@[simp] theorem core_clearAllEndx_non (k : Core) : (k.clearAllEndx).non = k.non := rfl
@[simp] theorem core_clearAllEndx_vmixl (k : Core) : (k.clearAllEndx).vmixl = k.vmixl := rfl
@[simp] theorem core_clearAllEndx_vmixel (k : Core) : (k.clearAllEndx).vmixel = k.vmixel := rfl
@[simp] theorem core_clearAllEndx_vmixr (k : Core) : (k.clearAllEndx).vmixr = k.vmixr := rfl
@[simp] theorem core_clearAllEndx_vmixer (k : Core) : (k.clearAllEndx).vmixer = k.vmixer := rfl
@[simp] theorem core_clearAllEndx_mmix (k : Core) : (k.clearAllEndx).mmix = k.mmix := rfl
@[simp] theorem core_clearAllEndx_attr (k : Core) : (k.clearAllEndx).attr = k.attr := rfl
@[simp] theorem core_clearAllEndx_irqa (k : Core) : (k.clearAllEndx).irqa = k.irqa := rfl
@[simp] theorem core_clearAllEndx_kon (k : Core) : (k.clearAllEndx).kon = k.kon := rfl
@[simp] theorem core_clearAllEndx_koff (k : Core) : (k.clearAllEndx).koff = k.koff := rfl
@[simp] theorem core_clearAllEndx_tsa (k : Core) : (k.clearAllEndx).tsa = k.tsa := rfl
@[simp] theorem core_clearAllEndx_taddr (k : Core) : (k.clearAllEndx).taddr = k.taddr := rfl
@[simp] theorem core_clearAllEndx_admas (k : Core) : (k.clearAllEndx).admas = k.admas := rfl
@[simp] theorem core_clearAllEndx_mvol (k : Core) : (k.clearAllEndx).mvol = k.mvol := rfl
@[simp] theorem core_clearAllEndx_evol (k : Core) : (k.clearAllEndx).evol = k.evol := rfl
@[simp] theorem core_clearAllEndx_avol (k : Core) : (k.clearAllEndx).avol = k.avol := rfl
@[simp] theorem core_clearAllEndx_bvol (k : Core) : (k.clearAllEndx).bvol = k.bvol := rfl
@[simp] theorem core_clearAllEndx_esa (k : Core) : (k.clearAllEndx).esa = k.esa := rfl
@[simp] theorem core_clearAllEndx_eea (k : Core) : (k.clearAllEndx).eea = k.eea := rfl
@[simp] theorem core_clearAllEndx_offs (k : Core) : (k.clearAllEndx).offs = k.offs := rfl
@[simp] theorem core_clearAllEndx_coefs (k : Core) : (k.clearAllEndx).coefs = k.coefs := rfl
@[simp] theorem core_clearAllEndx_rvb (k : Core) : (k.clearAllEndx).rvb = k.rvb := rfl
@[simp] theorem core_clearAllEndx_noise (k : Core) : (k.clearAllEndx).noise = k.noise := rfl
@[simp] theorem core_clearAllEndx_outPos (k : Core) : (k.clearAllEndx).outPos = k.outPos := rfl
@[simp] theorem core_clearAllEndx_dma (k : Core) : (k.clearAllEndx).dma = k.dma := rfl
@[simp] theorem core_clearAllEndx_adma (k : Core) : (k.clearAllEndx).adma = k.adma := rfl
@[simp] theorem core_clearAllEndx_voices (k : Core) : (k.clearAllEndx).voices = k.voices := rfl
@[simp] theorem core_clearAllEndx_voice (k : Core) (v' : VoiceId) : (k.clearAllEndx).voice v' = k.voice v' := rfl

/-! ## Reverb registers -/

theorem offsetIndex_inj {o o' : RvbOffset} {i i' : Side} (h : offsetIndex o i = offsetIndex o' i') :
    o = o' ∧ i = i' := by
  cases o <;> cases o' <;> cases i <;> cases i' <;> first | exact ⟨rfl, rfl⟩ | exact absurd h (by decide)

theorem rvbCoef_index_inj {n n' : RvbCoef} (h : n.index = n'.index) : n = n' := by
  cases n <;> cases n' <;> first | rfl | exact absurd h (by decide)

@[simp] theorem core_off_setOff_same (k : Core) (o : RvbOffset) (i : Side) (x : RamAddr) :
    (k.setOff o i x).off o i = x := by
  simp [Core.setOff, Core.off]

theorem core_off_setOff_other (k : Core) {o o' : RvbOffset} {i i' : Side} (x : RamAddr)
    (h : ¬(o' = o ∧ i' = i)) : (k.setOff o i x).off o' i' = k.off o' i' := by
  have hv : (offsetIndex o i).val ≠ (offsetIndex o' i').val := fun h' => by
    have := offsetIndex_inj (Fin.ext h')
    exact h ⟨this.1.symm, this.2.symm⟩
  simp [Core.setOff, Core.off, hv]

@[simp] theorem core_coef_setCoef_same (k : Core) (n : RvbCoef) (x : Half) : (k.setCoef n x).coef n = x := by
  simp [Core.setCoef, Core.coef]

theorem core_coef_setCoef_other (k : Core) {n n' : RvbCoef} (x : Half) (h : n' ≠ n) :
    (k.setCoef n x).coef n' = k.coef n' := by
  have hv : n.index.val ≠ n'.index.val := fun h' => h (rvbCoef_index_inj (Fin.ext h')).symm
  simp [Core.setCoef, Core.coef, hv]

@[simp] theorem core_setOff_pmon (k : Core) (o : RvbOffset) (i : Side) (x : RamAddr) :
    (k.setOff o i x).pmon = k.pmon := rfl
@[simp] theorem core_setCoef_pmon (k : Core) (n : RvbCoef) (x : Half) : (k.setCoef n x).pmon = k.pmon := rfl
@[simp] theorem core_setOff_non (k : Core) (o : RvbOffset) (i : Side) (x : RamAddr) :
    (k.setOff o i x).non = k.non := rfl
@[simp] theorem core_setCoef_non (k : Core) (n : RvbCoef) (x : Half) : (k.setCoef n x).non = k.non := rfl
@[simp] theorem core_setOff_vmixl (k : Core) (o : RvbOffset) (i : Side) (x : RamAddr) :
    (k.setOff o i x).vmixl = k.vmixl := rfl
@[simp] theorem core_setCoef_vmixl (k : Core) (n : RvbCoef) (x : Half) : (k.setCoef n x).vmixl = k.vmixl := rfl
@[simp] theorem core_setOff_vmixel (k : Core) (o : RvbOffset) (i : Side) (x : RamAddr) :
    (k.setOff o i x).vmixel = k.vmixel := rfl
@[simp] theorem core_setCoef_vmixel (k : Core) (n : RvbCoef) (x : Half) : (k.setCoef n x).vmixel = k.vmixel := rfl
@[simp] theorem core_setOff_vmixr (k : Core) (o : RvbOffset) (i : Side) (x : RamAddr) :
    (k.setOff o i x).vmixr = k.vmixr := rfl
@[simp] theorem core_setCoef_vmixr (k : Core) (n : RvbCoef) (x : Half) : (k.setCoef n x).vmixr = k.vmixr := rfl
@[simp] theorem core_setOff_vmixer (k : Core) (o : RvbOffset) (i : Side) (x : RamAddr) :
    (k.setOff o i x).vmixer = k.vmixer := rfl
@[simp] theorem core_setCoef_vmixer (k : Core) (n : RvbCoef) (x : Half) : (k.setCoef n x).vmixer = k.vmixer := rfl
@[simp] theorem core_setOff_mmix (k : Core) (o : RvbOffset) (i : Side) (x : RamAddr) :
    (k.setOff o i x).mmix = k.mmix := rfl
@[simp] theorem core_setCoef_mmix (k : Core) (n : RvbCoef) (x : Half) : (k.setCoef n x).mmix = k.mmix := rfl
@[simp] theorem core_setOff_attr (k : Core) (o : RvbOffset) (i : Side) (x : RamAddr) :
    (k.setOff o i x).attr = k.attr := rfl
@[simp] theorem core_setCoef_attr (k : Core) (n : RvbCoef) (x : Half) : (k.setCoef n x).attr = k.attr := rfl
@[simp] theorem core_setOff_irqa (k : Core) (o : RvbOffset) (i : Side) (x : RamAddr) :
    (k.setOff o i x).irqa = k.irqa := rfl
@[simp] theorem core_setCoef_irqa (k : Core) (n : RvbCoef) (x : Half) : (k.setCoef n x).irqa = k.irqa := rfl
@[simp] theorem core_setOff_kon (k : Core) (o : RvbOffset) (i : Side) (x : RamAddr) :
    (k.setOff o i x).kon = k.kon := rfl
@[simp] theorem core_setCoef_kon (k : Core) (n : RvbCoef) (x : Half) : (k.setCoef n x).kon = k.kon := rfl
@[simp] theorem core_setOff_koff (k : Core) (o : RvbOffset) (i : Side) (x : RamAddr) :
    (k.setOff o i x).koff = k.koff := rfl
@[simp] theorem core_setCoef_koff (k : Core) (n : RvbCoef) (x : Half) : (k.setCoef n x).koff = k.koff := rfl
@[simp] theorem core_setOff_tsa (k : Core) (o : RvbOffset) (i : Side) (x : RamAddr) :
    (k.setOff o i x).tsa = k.tsa := rfl
@[simp] theorem core_setCoef_tsa (k : Core) (n : RvbCoef) (x : Half) : (k.setCoef n x).tsa = k.tsa := rfl
@[simp] theorem core_setOff_taddr (k : Core) (o : RvbOffset) (i : Side) (x : RamAddr) :
    (k.setOff o i x).taddr = k.taddr := rfl
@[simp] theorem core_setCoef_taddr (k : Core) (n : RvbCoef) (x : Half) : (k.setCoef n x).taddr = k.taddr := rfl
@[simp] theorem core_setOff_admas (k : Core) (o : RvbOffset) (i : Side) (x : RamAddr) :
    (k.setOff o i x).admas = k.admas := rfl
@[simp] theorem core_setCoef_admas (k : Core) (n : RvbCoef) (x : Half) : (k.setCoef n x).admas = k.admas := rfl
@[simp] theorem core_setOff_endx (k : Core) (o : RvbOffset) (i : Side) (x : RamAddr) :
    (k.setOff o i x).endx = k.endx := rfl
@[simp] theorem core_setCoef_endx (k : Core) (n : RvbCoef) (x : Half) : (k.setCoef n x).endx = k.endx := rfl
@[simp] theorem core_setOff_mvol (k : Core) (o : RvbOffset) (i : Side) (x : RamAddr) :
    (k.setOff o i x).mvol = k.mvol := rfl
@[simp] theorem core_setCoef_mvol (k : Core) (n : RvbCoef) (x : Half) : (k.setCoef n x).mvol = k.mvol := rfl
@[simp] theorem core_setOff_evol (k : Core) (o : RvbOffset) (i : Side) (x : RamAddr) :
    (k.setOff o i x).evol = k.evol := rfl
@[simp] theorem core_setCoef_evol (k : Core) (n : RvbCoef) (x : Half) : (k.setCoef n x).evol = k.evol := rfl
@[simp] theorem core_setOff_avol (k : Core) (o : RvbOffset) (i : Side) (x : RamAddr) :
    (k.setOff o i x).avol = k.avol := rfl
@[simp] theorem core_setCoef_avol (k : Core) (n : RvbCoef) (x : Half) : (k.setCoef n x).avol = k.avol := rfl
@[simp] theorem core_setOff_bvol (k : Core) (o : RvbOffset) (i : Side) (x : RamAddr) :
    (k.setOff o i x).bvol = k.bvol := rfl
@[simp] theorem core_setCoef_bvol (k : Core) (n : RvbCoef) (x : Half) : (k.setCoef n x).bvol = k.bvol := rfl
@[simp] theorem core_setOff_esa (k : Core) (o : RvbOffset) (i : Side) (x : RamAddr) :
    (k.setOff o i x).esa = k.esa := rfl
@[simp] theorem core_setCoef_esa (k : Core) (n : RvbCoef) (x : Half) : (k.setCoef n x).esa = k.esa := rfl
@[simp] theorem core_setOff_eea (k : Core) (o : RvbOffset) (i : Side) (x : RamAddr) :
    (k.setOff o i x).eea = k.eea := rfl
@[simp] theorem core_setCoef_eea (k : Core) (n : RvbCoef) (x : Half) : (k.setCoef n x).eea = k.eea := rfl
@[simp] theorem core_setCoef_offs (k : Core) (n : RvbCoef) (x : Half) : (k.setCoef n x).offs = k.offs := rfl
@[simp] theorem core_setOff_coefs (k : Core) (o : RvbOffset) (i : Side) (x : RamAddr) :
    (k.setOff o i x).coefs = k.coefs := rfl
@[simp] theorem core_setOff_rvb (k : Core) (o : RvbOffset) (i : Side) (x : RamAddr) :
    (k.setOff o i x).rvb = k.rvb := rfl
@[simp] theorem core_setCoef_rvb (k : Core) (n : RvbCoef) (x : Half) : (k.setCoef n x).rvb = k.rvb := rfl
@[simp] theorem core_setOff_noise (k : Core) (o : RvbOffset) (i : Side) (x : RamAddr) :
    (k.setOff o i x).noise = k.noise := rfl
@[simp] theorem core_setCoef_noise (k : Core) (n : RvbCoef) (x : Half) : (k.setCoef n x).noise = k.noise := rfl
@[simp] theorem core_setOff_outPos (k : Core) (o : RvbOffset) (i : Side) (x : RamAddr) :
    (k.setOff o i x).outPos = k.outPos := rfl
@[simp] theorem core_setCoef_outPos (k : Core) (n : RvbCoef) (x : Half) : (k.setCoef n x).outPos = k.outPos := rfl
@[simp] theorem core_setOff_dma (k : Core) (o : RvbOffset) (i : Side) (x : RamAddr) :
    (k.setOff o i x).dma = k.dma := rfl
@[simp] theorem core_setCoef_dma (k : Core) (n : RvbCoef) (x : Half) : (k.setCoef n x).dma = k.dma := rfl
@[simp] theorem core_setOff_adma (k : Core) (o : RvbOffset) (i : Side) (x : RamAddr) :
    (k.setOff o i x).adma = k.adma := rfl
@[simp] theorem core_setCoef_adma (k : Core) (n : RvbCoef) (x : Half) : (k.setCoef n x).adma = k.adma := rfl
@[simp] theorem core_setOff_voices (k : Core) (o : RvbOffset) (i : Side) (x : RamAddr) :
    (k.setOff o i x).voices = k.voices := rfl
@[simp] theorem core_setCoef_voices (k : Core) (n : RvbCoef) (x : Half) : (k.setCoef n x).voices = k.voices := rfl

/-! ## Parts of a core -/

@[simp] theorem core_updRvb_pmon (k : Core) (f : RvbWork → RvbWork) : (k.updRvb f).pmon = k.pmon := rfl
@[simp] theorem core_updRvb_non (k : Core) (f : RvbWork → RvbWork) : (k.updRvb f).non = k.non := rfl
@[simp] theorem core_updRvb_vmixl (k : Core) (f : RvbWork → RvbWork) : (k.updRvb f).vmixl = k.vmixl := rfl
@[simp] theorem core_updRvb_vmixel (k : Core) (f : RvbWork → RvbWork) : (k.updRvb f).vmixel = k.vmixel := rfl
@[simp] theorem core_updRvb_vmixr (k : Core) (f : RvbWork → RvbWork) : (k.updRvb f).vmixr = k.vmixr := rfl
@[simp] theorem core_updRvb_vmixer (k : Core) (f : RvbWork → RvbWork) : (k.updRvb f).vmixer = k.vmixer := rfl
@[simp] theorem core_updRvb_mmix (k : Core) (f : RvbWork → RvbWork) : (k.updRvb f).mmix = k.mmix := rfl
@[simp] theorem core_updRvb_attr (k : Core) (f : RvbWork → RvbWork) : (k.updRvb f).attr = k.attr := rfl
@[simp] theorem core_updRvb_irqa (k : Core) (f : RvbWork → RvbWork) : (k.updRvb f).irqa = k.irqa := rfl
@[simp] theorem core_updRvb_kon (k : Core) (f : RvbWork → RvbWork) : (k.updRvb f).kon = k.kon := rfl
@[simp] theorem core_updRvb_koff (k : Core) (f : RvbWork → RvbWork) : (k.updRvb f).koff = k.koff := rfl
@[simp] theorem core_updRvb_tsa (k : Core) (f : RvbWork → RvbWork) : (k.updRvb f).tsa = k.tsa := rfl
@[simp] theorem core_updRvb_taddr (k : Core) (f : RvbWork → RvbWork) : (k.updRvb f).taddr = k.taddr := rfl
@[simp] theorem core_updRvb_admas (k : Core) (f : RvbWork → RvbWork) : (k.updRvb f).admas = k.admas := rfl
@[simp] theorem core_updRvb_endx (k : Core) (f : RvbWork → RvbWork) : (k.updRvb f).endx = k.endx := rfl
@[simp] theorem core_updRvb_mvol (k : Core) (f : RvbWork → RvbWork) : (k.updRvb f).mvol = k.mvol := rfl
@[simp] theorem core_updRvb_evol (k : Core) (f : RvbWork → RvbWork) : (k.updRvb f).evol = k.evol := rfl
@[simp] theorem core_updRvb_avol (k : Core) (f : RvbWork → RvbWork) : (k.updRvb f).avol = k.avol := rfl
@[simp] theorem core_updRvb_bvol (k : Core) (f : RvbWork → RvbWork) : (k.updRvb f).bvol = k.bvol := rfl
@[simp] theorem core_updRvb_esa (k : Core) (f : RvbWork → RvbWork) : (k.updRvb f).esa = k.esa := rfl
@[simp] theorem core_updRvb_eea (k : Core) (f : RvbWork → RvbWork) : (k.updRvb f).eea = k.eea := rfl
@[simp] theorem core_updRvb_offs (k : Core) (f : RvbWork → RvbWork) : (k.updRvb f).offs = k.offs := rfl
@[simp] theorem core_updRvb_coefs (k : Core) (f : RvbWork → RvbWork) : (k.updRvb f).coefs = k.coefs := rfl
@[simp] theorem core_updRvb_rvb (k : Core) (f : RvbWork → RvbWork) : (k.updRvb f).rvb = f k.rvb := rfl
@[simp] theorem core_updRvb_noise (k : Core) (f : RvbWork → RvbWork) : (k.updRvb f).noise = k.noise := rfl
@[simp] theorem core_updRvb_outPos (k : Core) (f : RvbWork → RvbWork) : (k.updRvb f).outPos = k.outPos := rfl
@[simp] theorem core_updRvb_dma (k : Core) (f : RvbWork → RvbWork) : (k.updRvb f).dma = k.dma := rfl
@[simp] theorem core_updRvb_adma (k : Core) (f : RvbWork → RvbWork) : (k.updRvb f).adma = k.adma := rfl
@[simp] theorem core_updRvb_voices (k : Core) (f : RvbWork → RvbWork) : (k.updRvb f).voices = k.voices := rfl
@[simp] theorem core_updRvb_voice (k : Core) (f : RvbWork → RvbWork) (v : VoiceId) :
    (k.updRvb f).voice v = k.voice v := rfl
@[simp] theorem core_updDma_pmon (k : Core) (f : Dma → Dma) : (k.updDma f).pmon = k.pmon := rfl
@[simp] theorem core_updDma_non (k : Core) (f : Dma → Dma) : (k.updDma f).non = k.non := rfl
@[simp] theorem core_updDma_vmixl (k : Core) (f : Dma → Dma) : (k.updDma f).vmixl = k.vmixl := rfl
@[simp] theorem core_updDma_vmixel (k : Core) (f : Dma → Dma) : (k.updDma f).vmixel = k.vmixel := rfl
@[simp] theorem core_updDma_vmixr (k : Core) (f : Dma → Dma) : (k.updDma f).vmixr = k.vmixr := rfl
@[simp] theorem core_updDma_vmixer (k : Core) (f : Dma → Dma) : (k.updDma f).vmixer = k.vmixer := rfl
@[simp] theorem core_updDma_mmix (k : Core) (f : Dma → Dma) : (k.updDma f).mmix = k.mmix := rfl
@[simp] theorem core_updDma_attr (k : Core) (f : Dma → Dma) : (k.updDma f).attr = k.attr := rfl
@[simp] theorem core_updDma_irqa (k : Core) (f : Dma → Dma) : (k.updDma f).irqa = k.irqa := rfl
@[simp] theorem core_updDma_kon (k : Core) (f : Dma → Dma) : (k.updDma f).kon = k.kon := rfl
@[simp] theorem core_updDma_koff (k : Core) (f : Dma → Dma) : (k.updDma f).koff = k.koff := rfl
@[simp] theorem core_updDma_tsa (k : Core) (f : Dma → Dma) : (k.updDma f).tsa = k.tsa := rfl
@[simp] theorem core_updDma_taddr (k : Core) (f : Dma → Dma) : (k.updDma f).taddr = k.taddr := rfl
@[simp] theorem core_updDma_admas (k : Core) (f : Dma → Dma) : (k.updDma f).admas = k.admas := rfl
@[simp] theorem core_updDma_endx (k : Core) (f : Dma → Dma) : (k.updDma f).endx = k.endx := rfl
@[simp] theorem core_updDma_mvol (k : Core) (f : Dma → Dma) : (k.updDma f).mvol = k.mvol := rfl
@[simp] theorem core_updDma_evol (k : Core) (f : Dma → Dma) : (k.updDma f).evol = k.evol := rfl
@[simp] theorem core_updDma_avol (k : Core) (f : Dma → Dma) : (k.updDma f).avol = k.avol := rfl
@[simp] theorem core_updDma_bvol (k : Core) (f : Dma → Dma) : (k.updDma f).bvol = k.bvol := rfl
@[simp] theorem core_updDma_esa (k : Core) (f : Dma → Dma) : (k.updDma f).esa = k.esa := rfl
@[simp] theorem core_updDma_eea (k : Core) (f : Dma → Dma) : (k.updDma f).eea = k.eea := rfl
@[simp] theorem core_updDma_offs (k : Core) (f : Dma → Dma) : (k.updDma f).offs = k.offs := rfl
@[simp] theorem core_updDma_coefs (k : Core) (f : Dma → Dma) : (k.updDma f).coefs = k.coefs := rfl
@[simp] theorem core_updDma_rvb (k : Core) (f : Dma → Dma) : (k.updDma f).rvb = k.rvb := rfl
@[simp] theorem core_updDma_noise (k : Core) (f : Dma → Dma) : (k.updDma f).noise = k.noise := rfl
@[simp] theorem core_updDma_outPos (k : Core) (f : Dma → Dma) : (k.updDma f).outPos = k.outPos := rfl
@[simp] theorem core_updDma_dma (k : Core) (f : Dma → Dma) : (k.updDma f).dma = f k.dma := rfl
@[simp] theorem core_updDma_adma (k : Core) (f : Dma → Dma) : (k.updDma f).adma = k.adma := rfl
@[simp] theorem core_updDma_voices (k : Core) (f : Dma → Dma) : (k.updDma f).voices = k.voices := rfl
@[simp] theorem core_updDma_voice (k : Core) (f : Dma → Dma) (v : VoiceId) :
    (k.updDma f).voice v = k.voice v := rfl
@[simp] theorem core_updAdma_pmon (k : Core) (f : Adma → Adma) : (k.updAdma f).pmon = k.pmon := rfl
@[simp] theorem core_updAdma_non (k : Core) (f : Adma → Adma) : (k.updAdma f).non = k.non := rfl
@[simp] theorem core_updAdma_vmixl (k : Core) (f : Adma → Adma) : (k.updAdma f).vmixl = k.vmixl := rfl
@[simp] theorem core_updAdma_vmixel (k : Core) (f : Adma → Adma) : (k.updAdma f).vmixel = k.vmixel := rfl
@[simp] theorem core_updAdma_vmixr (k : Core) (f : Adma → Adma) : (k.updAdma f).vmixr = k.vmixr := rfl
@[simp] theorem core_updAdma_vmixer (k : Core) (f : Adma → Adma) : (k.updAdma f).vmixer = k.vmixer := rfl
@[simp] theorem core_updAdma_mmix (k : Core) (f : Adma → Adma) : (k.updAdma f).mmix = k.mmix := rfl
@[simp] theorem core_updAdma_attr (k : Core) (f : Adma → Adma) : (k.updAdma f).attr = k.attr := rfl
@[simp] theorem core_updAdma_irqa (k : Core) (f : Adma → Adma) : (k.updAdma f).irqa = k.irqa := rfl
@[simp] theorem core_updAdma_kon (k : Core) (f : Adma → Adma) : (k.updAdma f).kon = k.kon := rfl
@[simp] theorem core_updAdma_koff (k : Core) (f : Adma → Adma) : (k.updAdma f).koff = k.koff := rfl
@[simp] theorem core_updAdma_tsa (k : Core) (f : Adma → Adma) : (k.updAdma f).tsa = k.tsa := rfl
@[simp] theorem core_updAdma_taddr (k : Core) (f : Adma → Adma) : (k.updAdma f).taddr = k.taddr := rfl
@[simp] theorem core_updAdma_admas (k : Core) (f : Adma → Adma) : (k.updAdma f).admas = k.admas := rfl
@[simp] theorem core_updAdma_endx (k : Core) (f : Adma → Adma) : (k.updAdma f).endx = k.endx := rfl
@[simp] theorem core_updAdma_mvol (k : Core) (f : Adma → Adma) : (k.updAdma f).mvol = k.mvol := rfl
@[simp] theorem core_updAdma_evol (k : Core) (f : Adma → Adma) : (k.updAdma f).evol = k.evol := rfl
@[simp] theorem core_updAdma_avol (k : Core) (f : Adma → Adma) : (k.updAdma f).avol = k.avol := rfl
@[simp] theorem core_updAdma_bvol (k : Core) (f : Adma → Adma) : (k.updAdma f).bvol = k.bvol := rfl
@[simp] theorem core_updAdma_esa (k : Core) (f : Adma → Adma) : (k.updAdma f).esa = k.esa := rfl
@[simp] theorem core_updAdma_eea (k : Core) (f : Adma → Adma) : (k.updAdma f).eea = k.eea := rfl
@[simp] theorem core_updAdma_offs (k : Core) (f : Adma → Adma) : (k.updAdma f).offs = k.offs := rfl
@[simp] theorem core_updAdma_coefs (k : Core) (f : Adma → Adma) : (k.updAdma f).coefs = k.coefs := rfl
@[simp] theorem core_updAdma_rvb (k : Core) (f : Adma → Adma) : (k.updAdma f).rvb = k.rvb := rfl
@[simp] theorem core_updAdma_noise (k : Core) (f : Adma → Adma) : (k.updAdma f).noise = k.noise := rfl
@[simp] theorem core_updAdma_outPos (k : Core) (f : Adma → Adma) : (k.updAdma f).outPos = k.outPos := rfl
@[simp] theorem core_updAdma_dma (k : Core) (f : Adma → Adma) : (k.updAdma f).dma = k.dma := rfl
@[simp] theorem core_updAdma_adma (k : Core) (f : Adma → Adma) : (k.updAdma f).adma = f k.adma := rfl
@[simp] theorem core_updAdma_voices (k : Core) (f : Adma → Adma) : (k.updAdma f).voices = k.voices := rfl
@[simp] theorem core_updAdma_voice (k : Core) (f : Adma → Adma) (v : VoiceId) :
    (k.updAdma f).voice v = k.voice v := rfl
@[simp] theorem engine_setHalf_ram (e : Engine) (b : Bool) : (e.setHalf b).ram = e.ram := rfl
@[simp] theorem engine_setHalf_log (e : Engine) (b : Bool) : (e.setHalf b).log = e.log := rfl
@[simp] theorem engine_setHalf_half (e : Engine) (b : Bool) : (e.setHalf b).irqstat.half = b := rfl
@[simp] theorem engine_setHalf_core (e : Engine) (b : Bool) (c : CoreId) : (e.setHalf b).core c = e.core c :=
  by cases c <;> rfl

end Sys2Proof.Machine
end

