-- ==== Sys2Proof/Laws/Ops.lean ====
section
/-! SUPPORT. What the shared operations over the engine and the registers can do. -/

namespace Sys2Proof.Machine

/-! ## The address test -/

/-- The condition of 60_exceptions R443. -/
theorem irqTest_hit {cfg : Config} {c : CoreId} {a : RamAddr} {src : IrqSource} {e : Engine}
    (h1 : cfg.irqSources.has src = true) (h2 : (e.core c).irqEnabled = true) (h3 : a = (e.core c).irqa) :
    irqTest cfg c a src e = raiseIrq c e := by
  simp [irqTest, h1, h2, h3]

/-- All the address test can do. -/
theorem irqTest_cases (cfg : Config) (c : CoreId) (a : RamAddr) (src : IrqSource) (e : Engine) :
    (irqTest cfg c a src e = raiseIrq c e ∧ cfg.irqSources.has src = true ∧
      (e.core c).irqEnabled = true ∧ a = (e.core c).irqa) ∨
    (irqTest cfg c a src e = e ∧
      ¬(cfg.irqSources.has src = true ∧ (e.core c).irqEnabled = true ∧ a = (e.core c).irqa)) := by
  unfold irqTest
  split
  · next h =>
    simp only [Bool.and_eq_true, beq_iff_eq] at h
    exact .inl ⟨rfl, h.1.1, h.1.2, h.2⟩
  · next h =>
    simp only [Bool.and_eq_true, beq_iff_eq] at h
    exact .inr ⟨rfl, fun h' => h ⟨⟨h'.1, h'.2.1⟩, h'.2.2⟩⟩

@[simp] theorem irqTest_ram (cfg : Config) (c : CoreId) (a : RamAddr) (src : IrqSource) (e : Engine) :
    (irqTest cfg c a src e).ram = e.ram := by
  unfold irqTest
  split <;> simp

@[simp] theorem irqTest_core (cfg : Config) (c c' : CoreId) (a : RamAddr) (src : IrqSource) (e : Engine) :
    (irqTest cfg c a src e).core c' = e.core c' := by
  unfold irqTest
  split <;> simp

@[simp] theorem irqTest_core0 (cfg : Config) (c : CoreId) (a : RamAddr) (src : IrqSource) (e : Engine) :
    (irqTest cfg c a src e).core0 = e.core0 :=
  irqTest_core cfg c .core0 a src e

@[simp] theorem irqTest_core1 (cfg : Config) (c : CoreId) (a : RamAddr) (src : IrqSource) (e : Engine) :
    (irqTest cfg c a src e).core1 = e.core1 :=
  irqTest_core cfg c .core1 a src e

@[simp] theorem irqTest_half (cfg : Config) (c : CoreId) (a : RamAddr) (src : IrqSource) (e : Engine) :
    (irqTest cfg c a src e).irqstat.half = e.irqstat.half := by
  unfold irqTest
  split <;> simp

/-! ## Register access -/

@[simp] theorem registerAccess_read (rd : State → Half) (wr : Half → State → State) (s : State) :
    registerAccess rd wr .read s = .next (s.emit (.readData (rd s))) := rfl

@[simp] theorem registerAccess_write (rd : State → Half) (wr : Half → State → State) (d : Half) (s : State) :
    registerAccess rd wr (.write d) s = .next (wr d s) := rfl

@[simp] theorem readOnlyAccess_read (rd : State → Half) (s : State) :
    readOnlyAccess rd .read s = .next (s.emit (.readData (rd s))) := rfl

@[simp] theorem readOnlyAccess_write (rd : State → Half) (d : Half) (s : State) :
    readOnlyAccess rd (.write d) s = .next s := rfl

@[simp] theorem coreAccess_read (c : CoreId) (rd : Core → Half) (wr : Half → Core → Core) (s : State) :
    coreAccess c rd wr .read s = .next (s.emit (.readData (rd (s.core c)))) := rfl

@[simp] theorem coreAccess_write (c : CoreId) (rd : Core → Half) (wr : Half → Core → Core) (d : Half)
    (s : State) : coreAccess c rd wr (.write d) s = .next (s.updCore c (wr d)) := rfl

@[simp] theorem voiceAccess_read (c : CoreId) (v : VoiceId) (rd : Voice → Half) (wr : Half → Voice → Voice)
    (s : State) : voiceAccess c v rd wr .read s = .next (s.emit (.readData (rd (s.voice c v)))) := rfl

@[simp] theorem voiceAccess_write (c : CoreId) (v : VoiceId) (rd : Voice → Half) (wr : Half → Voice → Voice)
    (d : Half) (s : State) : voiceAccess c v rd wr (.write d) s = .next (s.updVoice c v (wr d)) := rfl

@[simp] theorem state_updVoice_voice_same (s : State) (c : CoreId) (v : VoiceId) (f : Voice → Voice) :
    (s.updVoice c v f).voice c v = f (s.voice c v) := by
  simp [State.voice]

theorem state_updVoice_voice_other (s : State) {c c' : CoreId} {v v' : VoiceId} (f : Voice → Voice)
    (h : ¬(c' = c ∧ v' = v)) : (s.updVoice c v f).voice c' v' = s.voice c' v' := by
  by_cases hc : c' = c
  · subst hc
    simp only [State.voice, state_updVoice_core_same]
    exact core_updVoice_voice_other _ _ fun hv => h ⟨rfl, hv⟩
  · simp only [State.voice, state_updVoice_core_other _ _ _ hc]

@[simp] theorem state_emit_voice (s : State) (x : Event) (c : CoreId) (v : VoiceId) :
    (s.emit x).voice c v = s.voice c v := by
  simp [State.voice]

/-! ## Volume registers -/

/-- What a write of a volume register does (40_register_access R142). -/
theorem writeVolume_cases (d : Half) (u : VolUnit) :
    (volSweep.isSet d = true ∧ writeVolume d u = { u with reg := d }) ∨
    (volSweep.isSet d = false ∧ writeVolume d u = { reg := d, level := d <<< 1, frac := 0 }) := by
  unfold writeVolume
  cases h : volSweep.isSet d <;> simp

@[simp] theorem writeVolume_reg (d : Half) (u : VolUnit) : (writeVolume d u).reg = d := by
  rcases writeVolume_cases d u with ⟨-, h⟩ | ⟨-, h⟩ <;> rw [h]

theorem writeVolume_frac_le (d : Half) (u : VolUnit) : (writeVolume d u).frac ≤ u.frac := by
  rcases writeVolume_cases d u with ⟨-, h⟩ | ⟨-, h⟩ <;> simp [h]

/-! ## Bit fields -/

/-- A field of width `w` is below `2^w`. -/
theorem bitField_of_lt (f : BitField) (r : Half) : f.of r < 2 ^ (f.hi - f.lo + 1) :=
  Nat.mod_lt _ (Nat.two_pow_pos _)

end Sys2Proof.Machine
end

