-- ==== Sys2Proof/Laws/Voices.lean ====
section
/-! SUPPORT. Loops over the 24 voices. -/

namespace Sys2Proof.Machine

theorem voiceIds_nodup : voiceIds.Nodup := by decide

theorem mem_voiceIds (v : VoiceId) : v ∈ voiceIds := by
  revert v
  decide

/-- What every pass of a voice loop keeps, the loop keeps. -/
theorem forVoices_induct {P : Core → Prop} {f : VoiceId → Core → Core} (hf : ∀ v k, P k → P (f v k))
    {k : Core} (hk : P k) : P (forVoices f k) := by
  unfold forVoices
  generalize voiceIds = l
  induction l generalizing k with
  | nil => exact hk
  | cons v l ih => exact ih (hf v k hk)

/-- A field that no pass changes. -/
theorem forVoices_field {α : Type} (field : Core → α) {f : VoiceId → Core → Core}
    (hf : ∀ v k, field (f v k) = field k) (k : Core) : field (forVoices f k) = field k :=
  forVoices_induct (P := fun k' => field k' = field k) (fun v k' h => (hf v k').trans h) rfl

/-- A loop whose pass `v` changes voice `v` alone, by `g v`, applies `g v` to every voice. `P` is what the passes may rely on. -/
theorem forVoices_voice {f : VoiceId → Core → Core} {g : VoiceId → Voice → Voice} {P : Core → Prop}
    (hP : ∀ v k, P k → P (f v k)) (hsame : ∀ v k, P k → (f v k).voice v = g v (k.voice v))
    (hother : ∀ v v' k, P k → v' ≠ v → (f v k).voice v' = k.voice v') {k : Core} (hk : P k) (v : VoiceId) :
    (forVoices f k).voice v = g v (k.voice v) := by
  have key : ∀ (l : List VoiceId), l.Nodup → ∀ k, P k →
      (l.foldl (fun k v => f v k) k).voice v = if v ∈ l then g v (k.voice v) else k.voice v := by
    intro l
    induction l with
    | nil => intro _ k _; simp
    | cons w l ih =>
      intro hl k hk
      obtain ⟨hw, hl⟩ := List.nodup_cons.1 hl
      rw [List.foldl_cons, ih hl _ (hP w k hk)]
      by_cases hvw : v = w
      · subst hvw
        simp [hw, hsame v k hk]
      · simp [hvw, hother w v k hk hvw]
  have := key voiceIds voiceIds_nodup k hk
  simpa [forVoices, mem_voiceIds v] using this

/-- The same for a pass that is one update of the voice. -/
theorem forVoices_updVoice (g : VoiceId → Voice → Voice) (k : Core) (v : VoiceId) :
    (forVoices (fun v k => k.updVoice v (g v)) k).voice v = g v (k.voice v) :=
  forVoices_voice (f := fun v k => k.updVoice v (g v)) (g := g) (P := fun _ => True) (fun _ _ _ => trivial)
    (fun v k _ => core_updVoice_voice_same k v (g v)) (fun v _ k _ h => core_updVoice_voice_other k (g v) h)
    trivial v

/-- The samples or addresses of the loop's list, one per voice. -/
theorem voiceIds_getElem (v : VoiceId) : voiceIds[v.val]? = some v := by
  revert v
  decide

/-- What a loop does to an observation of voice `v`, where pass `v` changes it by `g v` and the other passes leave it alone. -/
theorem forVoices_observe {α : Type} {f : VoiceId → Core → Core} (obs : VoiceId → Core → α)
    (g : VoiceId → α → α) (hsame : ∀ v k, obs v (f v k) = g v (obs v k))
    (hother : ∀ v v' k, v' ≠ v → obs v' (f v k) = obs v' k) (k : Core) (v : VoiceId) :
    obs v (forVoices f k) = g v (obs v k) := by
  have key : ∀ (l : List VoiceId), l.Nodup → ∀ k,
      obs v (l.foldl (fun k v => f v k) k) = if v ∈ l then g v (obs v k) else obs v k := by
    intro l
    induction l with
    | nil => intro _ k; simp
    | cons w l ih =>
      intro hl k
      obtain ⟨hw, hl⟩ := List.nodup_cons.1 hl
      rw [List.foldl_cons, ih hl]
      by_cases hvw : v = w
      · subst hvw
        simp [hw, hsame]
      · simp [hvw, hother w v k hvw]
  have := key voiceIds voiceIds_nodup k
  simpa [forVoices, mem_voiceIds v] using this

/-- Bit `u` of the mask of voice `v`. -/
theorem voiceMaskBit_getLsbD (v u : VoiceId) : (voiceMaskBit v).getLsbD u.val = decide (u = v) := by
  revert v u
  decide

/-- Two updates of one voice are one. -/
theorem core_updVoice_updVoice (k : Core) (v : VoiceId) (f g : Voice → Voice) :
    (k.updVoice v f).updVoice v g = k.updVoice v fun w => g (f w) := by
  unfold Core.updVoice Core.voice
  simp

end Sys2Proof.Machine
end

