-- ==== Sys2Proof/Laws/Adpcm.lean ====
section
/-! SUPPORT. What the decoder, the key events and the loops over voices leave of a voice and of a core. -/

namespace Sys2Proof.Machine

/-! ## Settings -/

theorem Voice.SameSettings.refl (w : Voice) : w.SameSettings w := ⟨rfl, rfl, rfl, rfl, rfl, rfl⟩

theorem Voice.SameSettings.trans {a b c : Voice} (h : a.SameSettings b) (g : b.SameSettings c) :
    a.SameSettings c :=
  ⟨g.1.trans h.1, g.2.trans h.2, g.3.trans h.3, g.4.trans h.4, g.5.trans h.5, g.6.trans h.6⟩

theorem Core.SameSettings.refl (k : Core) : k.SameSettings k :=
  ⟨rfl, rfl, rfl, rfl, rfl, rfl, rfl, rfl, rfl, rfl, rfl, rfl, rfl, rfl, rfl, rfl, rfl, rfl, rfl, rfl, rfl, rfl,
    fun _ => .refl _⟩

theorem Core.SameSettings.trans {a b c : Core} (h : a.SameSettings b) (g : b.SameSettings c) :
    a.SameSettings c :=
  ⟨g.1.trans h.1, g.2.trans h.2, g.3.trans h.3, g.4.trans h.4, g.5.trans h.5, g.6.trans h.6, g.7.trans h.7,
    g.8.trans h.8, g.9.trans h.9, g.10.trans h.10, g.11.trans h.11, g.12.trans h.12, g.13.trans h.13,
    g.14.trans h.14, g.15.trans h.15, g.16.trans h.16, g.17.trans h.17, g.18.trans h.18, g.19.trans h.19,
    g.20.trans h.20, g.21.trans h.21, g.22.trans h.22, fun v => (h.voices v).trans (g.voices v)⟩

/-- What the steps 2 to 9 of a tick keep of a core: its settings, its master volume, its position, its Auto-DMA counters and its noise generator. -/
structure Core.VoicePart (k k' : Core) : Prop where
  settings : k.SameSettings k'
  mvol : k'.mvol = k.mvol
  outPos : k'.outPos = k.outPos
  adma : k'.adma = k.adma
  noise : k'.noise = k.noise

theorem Core.VoicePart.refl (k : Core) : k.VoicePart k := ⟨.refl _, rfl, rfl, rfl, rfl⟩

theorem Core.VoicePart.trans {a b c : Core} (h : a.VoicePart b) (g : b.VoicePart c) : a.VoicePart c :=
  ⟨h.1.trans g.1, g.2.trans h.2, g.3.trans h.3, g.4.trans h.4, g.5.trans h.5⟩

theorem voicePart_updVoice (k : Core) (v : VoiceId) (f : Voice → Voice)
    (h : (k.voice v).SameSettings (f (k.voice v))) : k.VoicePart (k.updVoice v f) := by
  refine ⟨⟨rfl, rfl, rfl, rfl, rfl, rfl, rfl, rfl, rfl, rfl, rfl, rfl, rfl, rfl, rfl, rfl, rfl, rfl, rfl, rfl,
    rfl, rfl, fun v' => ?_⟩, rfl, rfl, rfl, rfl⟩
  by_cases hv : v' = v
  · subst hv
    rw [core_updVoice_voice_same]
    exact h
  · rw [core_updVoice_voice_other _ _ hv]
    exact .refl _

theorem voicePart_flags (k : Core) (endx kon koff : VoiceMask) :
    k.VoicePart { k with endx := endx, kon := kon, koff := koff } :=
  ⟨⟨rfl, rfl, rfl, rfl, rfl, rfl, rfl, rfl, rfl, rfl, rfl, rfl, rfl, rfl, rfl, rfl, rfl, rfl, rfl, rfl, rfl, rfl,
    fun _ => ⟨rfl, rfl, rfl, rfl, rfl, rfl⟩⟩, rfl, rfl, rfl, rfl⟩

theorem voicePart_forVoices {f : VoiceId → Core → Core} (h : ∀ v (k : Core), k.VoicePart (f v k)) (k : Core) :
    k.VoicePart (forVoices f k) :=
  forVoices_induct (P := k.VoicePart) (fun v k' hk => hk.trans (h v k')) (.refl _)

/-! ## Decoding (42_adpcm R261 to R270) -/

/-- A decoded nibble appends one sample, which becomes the newest history; the rest of the voice stays. -/
theorem decodeNibble_spec (cfg : Config) (w : Voice) (n : BitVec 4) :
    ∃ x, decodeNibble cfg w n = { w with buf := w.buf ++ [x], hist1 := x, hist2 := w.hist1 } := ⟨_, rfl⟩

/-- A decoded data word appends four samples, of which the newest two become the history; the rest stays. -/
theorem decodeWord_spec (cfg : Config) (d : Half) (w : Voice) :
    ∃ x0 x1 x2 x3, decodeWord cfg d w = { w with buf := w.buf ++ [x0, x1, x2, x3], hist1 := x3, hist2 := x2 } := by
  unfold decodeWord dataNibbles
  simp only [List.foldl_cons, List.foldl_nil]
  obtain ⟨x0, h0⟩ := decodeNibble_spec cfg w (d.extractLsb' 0 4)
  rw [h0]
  obtain ⟨x1, h1⟩ := decodeNibble_spec cfg { w with buf := w.buf ++ [x0], hist1 := x0, hist2 := w.hist1 }
    (d.extractLsb' 4 4)
  rw [h1]
  obtain ⟨x2, h2⟩ := decodeNibble_spec cfg
    { w with buf := (w.buf ++ [x0]) ++ [x1], hist1 := x1, hist2 := x0 } (d.extractLsb' 8 4)
  rw [h2]
  obtain ⟨x3, h3⟩ := decodeNibble_spec cfg
    { w with buf := ((w.buf ++ [x0]) ++ [x1]) ++ [x2], hist1 := x2, hist2 := x1 } (d.extractLsb' 12 4)
  rw [h3]
  exact ⟨x0, x1, x2, x3, by simp⟩

/-- The two cases of the header read. -/
theorem readHeader_cases (m : Memory) (w : Voice) :
    (atBlockStart w.nax = true ∧ readHeader m w = (w.latchHeader (ramRead m w.nax)).advanceNax) ∨
    (atBlockStart w.nax = false ∧ readHeader m w = w) := by
  unfold readHeader
  cases atBlockStart w.nax <;> simp

/-- A decode step appends exactly four samples and keeps the envelope, the latch and the settings. -/
theorem decodeBlockWord_spec (cfg : Config) (m : Memory) (w : Voice) :
    w.SameSettings (decodeBlockWord cfg m w) ∧ (decodeBlockWord cfg m w).env = w.env ∧
      (decodeBlockWord cfg m w).vol = w.vol ∧ (decodeBlockWord cfg m w).customLoop = w.customLoop ∧
      (decodeBlockWord cfg m w).counter = w.counter ∧ (decodeBlockWord cfg m w).out = w.out ∧
      ∃ x0 x1 x2 x3, (decodeBlockWord cfg m w).buf = w.buf ++ [x0, x1, x2, x3] := by
  have hh : ∃ hdr lsa nax, readHeader m w = { w with hdr := hdr, lsa := lsa, nax := nax } := by
    rcases readHeader_cases m w with ⟨-, h⟩ | ⟨-, h⟩
    · exact ⟨_, _, _, h⟩
    · exact ⟨w.hdr, w.lsa, w.nax, h⟩
  obtain ⟨hdr, lsa, nax, hh⟩ := hh
  unfold decodeBlockWord
  rw [hh]
  unfold readData
  split
  · exact ⟨⟨rfl, rfl, rfl, rfl, rfl, rfl⟩, rfl, rfl, rfl, rfl, rfl, 0, 0, 0, 0, rfl⟩
  · obtain ⟨x0, x1, x2, x3, h⟩ :=
      decodeWord_spec cfg (ramRead m nax) { w with hdr := hdr, lsa := lsa, nax := nax }
    rw [h]
    exact ⟨⟨rfl, rfl, rfl, rfl, rfl, rfl⟩, rfl, rfl, rfl, rfl, rfl, x0, x1, x2, x3, rfl⟩

/-- The three outcomes of a decode step. -/
theorem decodeStep_cases (cfg : Config) (m : Memory) (v : VoiceId) (k : Core) :
    (16 ≤ (k.voice v).buf.length ∧ decodeStep cfg m v k = k) ∨
    ((k.voice v).buf.length < 16 ∧ (decodeBlockWord cfg m (k.voice v)).atLoopEnd = true ∧
      decodeStep cfg m v k = loopEnd v (k.updVoice v (decodeBlockWord cfg m))) ∨
    ((k.voice v).buf.length < 16 ∧ (decodeBlockWord cfg m (k.voice v)).atLoopEnd = false ∧
      decodeStep cfg m v k = k.updVoice v (decodeBlockWord cfg m)) := by
  unfold decodeStep
  split
  · next h => exact .inl ⟨h, rfl⟩
  · next h =>
    simp only [core_updVoice_voice_same]
    cases hl : (decodeBlockWord cfg m (k.voice v)).atLoopEnd
    · exact .inr (.inr ⟨by omega, rfl, by simp⟩)
    · exact .inr (.inl ⟨by omega, rfl, by simp⟩)

theorem decodeStep_voicePart (cfg : Config) (m : Memory) (v : VoiceId) (k : Core) :
    k.VoicePart (decodeStep cfg m v k) := by
  have h1 := voicePart_updVoice k v (decodeBlockWord cfg m) (decodeBlockWord_spec cfg m _).1
  rcases decodeStep_cases cfg m v k with ⟨-, h⟩ | ⟨-, -, h⟩ | ⟨-, -, h⟩ <;> rw [h]
  · exact .refl _
  · exact (h1.trans (voicePart_updVoice _ v _ ⟨rfl, rfl, rfl, rfl, rfl, rfl⟩)).trans
      (voicePart_flags _ _ _ _)
  · exact h1

theorem decodeStep_keys (cfg : Config) (m : Memory) (v : VoiceId) (k : Core) :
    (decodeStep cfg m v k).kon = k.kon ∧ (decodeStep cfg m v k).koff = k.koff := by
  rcases decodeStep_cases cfg m v k with ⟨-, h⟩ | ⟨-, -, h⟩ | ⟨-, -, h⟩ <;> rw [h] <;> exact ⟨rfl, rfl⟩

/-- What a decode step does to its own voice; `noiseOn` is the voice's noise bit. -/
def decodedVoice (cfg : Config) (m : Memory) (noiseOn : Bool) (w : Voice) : Voice :=
  if 16 ≤ w.buf.length then w
  else if (decodeBlockWord cfg m w).atLoopEnd then (decodeBlockWord cfg m w).loopEnd noiseOn
  else decodeBlockWord cfg m w

theorem decodeStep_voice_same (cfg : Config) (m : Memory) (v : VoiceId) (k : Core) :
    (decodeStep cfg m v k).voice v = decodedVoice cfg m (k.non.getLsbD v.val) (k.voice v) := by
  unfold decodedVoice
  rcases decodeStep_cases cfg m v k with ⟨h1, h⟩ | ⟨h1, h2, h⟩ | ⟨h1, h2, h⟩ <;> rw [h]
  · rw [if_pos h1]
  · rw [if_neg (by omega), h2]
    show (Core.updVoice _ _ _).voice v = _
    rw [core_updVoice_voice_same, core_updVoice_voice_same]
    rfl
  · rw [if_neg (by omega), h2, core_updVoice_voice_same]
    rfl

theorem decodeStep_voice_other (cfg : Config) (m : Memory) {v v' : VoiceId} (k : Core) (h : v' ≠ v) :
    (decodeStep cfg m v k).voice v' = k.voice v' := by
  rcases decodeStep_cases cfg m v k with ⟨-, g⟩ | ⟨-, -, g⟩ | ⟨-, -, g⟩ <;> rw [g]
  · show (Core.updVoice _ _ _).voice v' = _
    rw [core_updVoice_voice_other _ _ h, core_updVoice_voice_other _ _ h]
  · rw [core_updVoice_voice_other _ _ h]

/-- A decode step changes of the core only the voices and `ENDX`, and of `ENDX` only its own voice's bit. -/
theorem decodeStep_core (cfg : Config) (m : Memory) (v : VoiceId) (k : Core) :
    decodeStep cfg m v k =
      { k with endx := (decodeStep cfg m v k).endx, voices := (decodeStep cfg m v k).voices } := by
  rcases decodeStep_cases cfg m v k with ⟨-, g⟩ | ⟨-, -, g⟩ | ⟨-, -, g⟩ <;> rw [g] <;> rfl

theorem decodeStep_endx_other (cfg : Config) (m : Memory) {v v' : VoiceId} (k : Core) (h : v' ≠ v) :
    (decodeStep cfg m v k).endx.getLsbD v'.val = k.endx.getLsbD v'.val := by
  rcases decodeStep_cases cfg m v k with ⟨-, g⟩ | ⟨-, -, g⟩ | ⟨-, -, g⟩ <;> rw [g]
  · show (k.endx ||| voiceMaskBit v).getLsbD v'.val = _
    rw [BitVec.getLsbD_or, voiceMaskBit_getLsbD]
    simp [h]
  · rfl

/-- The bit of `ENDX` a decode step leaves at its own voice. -/
theorem decodeStep_endx_same (cfg : Config) (m : Memory) (v : VoiceId) (k : Core) :
    (decodeStep cfg m v k).endx.getLsbD v.val =
      (k.endx.getLsbD v.val || (decide ((k.voice v).buf.length < 16) &&
        (decodeBlockWord cfg m (k.voice v)).atLoopEnd)) := by
  rcases decodeStep_cases cfg m v k with ⟨h1, g⟩ | ⟨h1, h2, g⟩ | ⟨h1, h2, g⟩ <;> rw [g]
  · simp [show ¬ (k.voice v).buf.length < 16 by omega]
  · show (k.endx ||| voiceMaskBit v).getLsbD v.val = _
    rw [BitVec.getLsbD_or, voiceMaskBit_getLsbD]
    simp [h1, h2]
  · rw [h2]
    simp [Core.updVoice]

/-- Step 4 on one voice: its own decode step, as it would be alone. -/
theorem decodeSteps_voice (cfg : Config) (m : Memory) (k : Core) (v : VoiceId) :
    (forVoices (decodeStep cfg m) k).voice v = (decodeStep cfg m v k).voice v := by
  rw [decodeStep_voice_same]
  refine forVoices_voice (f := decodeStep cfg m) (g := fun v => decodedVoice cfg m (k.non.getLsbD v.val))
    (P := fun k' => k'.non = k.non) (fun v k' h => ?_) (fun v k' h => ?_)
    (fun v v' k' _ h => decodeStep_voice_other cfg m k' h) rfl v
  · rw [← h, decodeStep_core]
  · rw [decodeStep_voice_same, h]

/-- Step 4 on one bit of `ENDX`. -/
theorem decodeSteps_endx (cfg : Config) (m : Memory) (k : Core) (v : VoiceId) :
    (forVoices (decodeStep cfg m) k).endx.getLsbD v.val = (decodeStep cfg m v k).endx.getLsbD v.val := by
  have h := forVoices_observe (f := decodeStep cfg m)
    (fun v k => (k.voice v, k.non.getLsbD v.val, k.endx.getLsbD v.val))
    (fun _ x => (decodedVoice cfg m x.2.1 x.1, x.2.1,
      x.2.2 || (decide (x.1.buf.length < 16) && (decodeBlockWord cfg m x.1).atLoopEnd)))
    (fun v k => by
      rw [decodeStep_voice_same, decodeStep_endx_same, decodeStep_core])
    (fun v v' k h => by
      rw [decodeStep_voice_other cfg m k h, decodeStep_endx_other cfg m k h, decodeStep_core]) k v
  rw [decodeStep_endx_same]
  exact congrArg (fun x => x.2.2) h

/-- After step 4 every queue holds at least four samples (R263). -/
theorem decodedVoice_buf (cfg : Config) (m : Memory) (noiseOn : Bool) (w : Voice) :
    4 ≤ (decodedVoice cfg m noiseOn w).buf.length := by
  unfold decodedVoice
  split
  · omega
  · obtain ⟨x0, x1, x2, x3, h⟩ := (decodeBlockWord_spec cfg m w).2.2.2.2.2.2
    have hb : ∀ b, ((decodeBlockWord cfg m w).loopEnd b).buf = (decodeBlockWord cfg m w).buf := fun _ => rfl
    split
    · rw [hb, h]
      simp
    · rw [h]
      simp

theorem decodedVoice_out (cfg : Config) (m : Memory) (noiseOn : Bool) (w : Voice) :
    (decodedVoice cfg m noiseOn w).out = w.out := by
  have h := (decodeBlockWord_spec cfg m w).2.2.2.2.2.1
  unfold decodedVoice
  split
  · rfl
  · split
    · exact h
    · exact h

/-! ## Key events (42_adpcm R275 to R277) -/

/-- Key events keep every latched output. -/
theorem processKeys_out (k : Core) (v : VoiceId) : ((processKeys k).voice v).out = (k.voice v).out := by
  have h1 := forVoices_observe (f := fun v k => if voiceBit k.kon v then keyOn v k else k)
    (fun v k => (k.voice v).out) (fun _ x => x)
    (fun v k => by
      split
      · show (Voice.out ((Core.updVoice _ _ _).voice v)) = _
        rw [core_updVoice_voice_same]
        rfl
      · rfl)
    (fun v v' k h => by
      split
      · show (Voice.out ((Core.updVoice _ _ _).voice v')) = _
        rw [core_updVoice_voice_other _ _ h]
      · rfl) k v
  have h2 := forVoices_observe (f := fun v k => if voiceBit k.koff v then keyOff v k else k)
    (fun v k => (k.voice v).out) (fun _ x => x)
    (fun v k => by
      split
      · show (Voice.out ((Core.updVoice _ _ _).voice v)) = _
        rw [core_updVoice_voice_same]
      · rfl)
    (fun v v' k h => by
      split
      · show (Voice.out ((Core.updVoice _ _ _).voice v')) = _
        rw [core_updVoice_voice_other _ _ h]
      · rfl) (forVoices (fun v k => if voiceBit k.kon v then keyOn v k else k) k) v
  exact h2.trans h1

theorem processKeys_voicePart (k : Core) : k.VoicePart (processKeys k) := by
  refine ((voicePart_forVoices (fun v k => ?_) k).trans (voicePart_forVoices (fun v k => ?_) _)).trans
    (voicePart_flags _ _ _ _)
  · split
    · exact (voicePart_updVoice _ _ _ ⟨rfl, rfl, rfl, rfl, rfl, rfl⟩).trans (voicePart_flags _ _ _ _)
    · exact .refl _
  · split
    · exact voicePart_updVoice _ _ _ ⟨rfl, rfl, rfl, rfl, rfl, rfl⟩
    · exact .refl _

@[simp] theorem processKeys_kon (k : Core) : (processKeys k).kon = 0 := rfl
@[simp] theorem processKeys_koff (k : Core) : (processKeys k).koff = 0 := rfl

/-! ## Envelopes and counters of all voices -/

@[simp] theorem volTick_reg (fracBits : Nat) (u : VolUnit) : (volTick fracBits u).reg = u.reg := by
  unfold volTick
  split <;> rfl

theorem envelopeVoices_voicePart (cfg : Config) (k : Core) : k.VoicePart (envelopeVoices cfg k) :=
  voicePart_forVoices (f := fun v k => k.updVoice v (envelopeStep cfg))
    (fun v k => voicePart_updVoice k v _ ⟨volTick_reg _ _, volTick_reg _ _, rfl, rfl, rfl, rfl⟩) k

theorem advanceCounters_voicePart (k : Core) : k.VoicePart (advanceCounters k) :=
  voicePart_forVoices (f := advanceCounter) (fun v k => voicePart_updVoice k v _ ⟨rfl, rfl, rfl, rfl, rfl, rfl⟩) k

theorem latchOuts_voicePart (raw : List Half) (k : Core) : k.VoicePart (latchOuts raw k) :=
  voicePart_forVoices (f := latchOut raw) (fun v k => voicePart_updVoice k v _ ⟨rfl, rfl, rfl, rfl, rfl, rfl⟩) k

/-- Step 6 on one voice. -/
theorem envelopeVoices_voice (cfg : Config) (k : Core) (v : VoiceId) :
    (envelopeVoices cfg k).voice v = envelopeStep cfg (k.voice v) :=
  forVoices_updVoice (fun _ => envelopeStep cfg) k v

/-- The step of a counter depends on the modulation mask, the pitch, and the previous voice's latched output. -/
theorem pitchStep_congr {k k' : Core} (hp : k'.pmon = k.pmon) (v : VoiceId)
    (hv : (k'.voice v).pitch = (k.voice v).pitch) (ho : ∀ u, (k'.voice u).out = (k.voice u).out) :
    pitchStep v k' = pitchStep v k := by
  unfold pitchStep
  rw [hp, hv, ho]

/-- Step 7 on one voice: modulation sees the outputs latched before the step. -/
theorem advanceCounters_voice (k : Core) (v : VoiceId) :
    (advanceCounters k).voice v = (k.voice v).advanceCounter (pitchStep v k) := by
  refine forVoices_voice (f := advanceCounter) (g := fun v w => w.advanceCounter (pitchStep v k))
    (P := fun k' => k'.pmon = k.pmon ∧ (∀ u, (k'.voice u).pitch = (k.voice u).pitch) ∧
      ∀ u, (k'.voice u).out = (k.voice u).out) (fun v k' h => ⟨h.1, fun u => ?_, fun u => ?_⟩) (fun v k' h => ?_)
    (fun v v' k' _ h => core_updVoice_voice_other _ _ h) ⟨rfl, fun _ => rfl, fun _ => rfl⟩ v
  · rw [← h.2.1 u]
    by_cases hu : u = v
    · subst hu
      simp [advanceCounter, Voice.advanceCounter]
    · simp only [advanceCounter, core_updVoice_voice_other _ _ hu]
  · rw [← h.2.2 u]
    by_cases hu : u = v
    · subst hu
      simp [advanceCounter, Voice.advanceCounter]
    · simp only [advanceCounter, core_updVoice_voice_other _ _ hu]
  · rw [← pitchStep_congr h.1 v (h.2.1 v) h.2.2]
    exact core_updVoice_voice_same ..

/-- Step 7 keeps every envelope. -/
theorem advanceCounters_env (k : Core) (v : VoiceId) : ((advanceCounters k).voice v).env = (k.voice v).env :=
  forVoices_observe (f := advanceCounter) (fun v k => (k.voice v).env) (fun _ x => x)
    (fun v k => by simp [advanceCounter, Voice.advanceCounter])
    (fun v v' k h => by simp only [advanceCounter, core_updVoice_voice_other _ _ h]) k v

/-- Step 9 on one voice: its output alone changes. -/
theorem latchOuts_voice (raw : List Half) (k : Core) (v : VoiceId) :
    (latchOuts raw k).voice v =
      { k.voice v with out := postEnvelope (voiceSample k raw v) (k.voice v).env.level } := by
  refine forVoices_voice (f := latchOut raw)
    (g := fun v w => { w with out := postEnvelope (voiceSample k raw v) w.env.level })
    (P := fun k' => k'.non = k.non ∧ k'.noise = k.noise) (fun _ _ h => h) (fun v k' h => ?_)
    (fun v v' k' _ h => core_updVoice_voice_other _ _ h) ⟨rfl, rfl⟩ v
  unfold latchOut voiceSample
  rw [core_updVoice_voice_same, h.1, h.2]

theorem envelopeVoices_keys (cfg : Config) (k : Core) :
    (envelopeVoices cfg k).kon = k.kon ∧ (envelopeVoices cfg k).koff = k.koff :=
  ⟨forVoices_field Core.kon (f := fun v k => k.updVoice v (envelopeStep cfg)) (fun _ _ => rfl) k,
    forVoices_field Core.koff (f := fun v k => k.updVoice v (envelopeStep cfg)) (fun _ _ => rfl) k⟩

theorem advanceCounters_keys (k : Core) : (advanceCounters k).kon = k.kon ∧ (advanceCounters k).koff = k.koff :=
  ⟨forVoices_field Core.kon (f := advanceCounter) (fun _ _ => rfl) k,
    forVoices_field Core.koff (f := advanceCounter) (fun _ _ => rfl) k⟩

theorem latchOuts_keys (raw : List Half) (k : Core) :
    (latchOuts raw k).kon = k.kon ∧ (latchOuts raw k).koff = k.koff :=
  ⟨forVoices_field Core.kon (f := latchOut raw) (fun _ _ => rfl) k,
    forVoices_field Core.koff (f := latchOut raw) (fun _ _ => rfl) k⟩

end Sys2Proof.Machine
end

