-- ==== Sys2Proof/Laws/Registers.lean ====
section
/-! SUPPORT. How a register meaning gives `Returns`, `Ignored`, `WritesCore` and `WritesVoice`, and the halves, bits and tables its operands are made of. -/

namespace Sys2Proof.Machine

/-! ## The four kinds of register access -/

theorem sameOutsideEngine_refl (s : State) : SameOutsideEngine s s := ⟨rfl, rfl, rfl, rfl, rfl, rfl, rfl, rfl⟩

theorem sameBesidesCores_refl (s : State) : SameBesidesCores s s :=
  ⟨sameOutsideEngine_refl s, fun _ => rfl, rfl, rfl⟩

/-- An operation that changes the engine alone leaves everything outside it. -/
theorem sameOutsideEngine_engine (s : State) (e : Engine) : SameOutsideEngine s { s with engine := e } :=
  ⟨rfl, rfl, rfl, rfl, rfl, rfl, rfl, rfl⟩

theorem returns_of {i : Instr} {s : State} {R : Half → Prop} {d : Half} (h : exec i s = returnRead s d)
    (hR : R d) : Returns i s R :=
  ⟨_, d, h, sameOutsideEngine_engine s _, fun _ => rfl, rfl, fun c => by cases c <;> rfl, rfl, hR⟩

theorem ignored_of {i : Instr} {s : State} (h : exec i s = .next s) : Ignored i s :=
  ⟨s, h, sameBesidesCores_refl s, fun _ => rfl⟩

theorem sameBesidesCores_updCore (s : State) (c : CoreId) (f : Core → Core) :
    SameBesidesCores s (s.updCore c f) :=
  ⟨sameOutsideEngine_engine s _, fun a => by simp, by simp, by simp⟩

theorem writesCore_of {i : Instr} {s : State} {c : CoreId} {f : Core → Core} {R : Core → Core → Prop}
    (h : exec i s = .next (s.updCore c f)) (hR : R (s.core c) (f (s.core c))) : WritesCore i c s R := by
  refine ⟨_, h, sameBesidesCores_updCore s c f, fun c' hc => state_updCore_core_other _ _ hc, ?_⟩
  rw [state_updCore_core_same]
  exact hR

theorem writesVoice_of {i : Instr} {s : State} {c : CoreId} {v : VoiceId} {f : Voice → Voice}
    {R : Voice → Voice → Prop} (h : exec i s = .next (s.updVoice c v f))
    (hR : R (s.voice c v) (f (s.voice c v))) : WritesVoice i c v s R := by
  refine writesCore_of h ⟨rfl, fun v' hv => core_updVoice_voice_other _ _ hv, ?_⟩
  rw [core_updVoice_voice_same]
  exact hR

/-! ## Halves (30_encoding R111, R112) -/

theorem setMaskLow_written (m : VoiceMask) (d : Half) : LowHalfWritten m d (setMaskLow m d) := by
  intro i hi
  simp only [setMaskLow, BitVec.getLsbD_append, BitVec.getLsbD_extractLsb']
  split
  · rfl
  · simp [show i - 16 < 8 by omega, show 16 + (i - 16) = i by omega]

theorem setMaskHigh_written (m : VoiceMask) (d : Half) : HighHalfWritten m d (setMaskHigh m d) := by
  intro i hi
  simp only [setMaskHigh, BitVec.getLsbD_append, BitVec.getLsbD_extractLsb']
  split
  · next h => simp [h]
  · simp [show i - 16 < 8 by omega]

theorem setAddrLow_written (a : RamAddr) (d : Half) : LowHalfWritten a d (setAddrLow a d) := by
  intro i hi
  simp only [setAddrLow, BitVec.getLsbD_append, BitVec.getLsbD_extractLsb']
  split
  · rfl
  · simp [show i - 16 < 4 by omega, show 16 + (i - 16) = i by omega]

theorem setAddrHigh_written (a : RamAddr) (d : Half) : HighHalfWritten a d (setAddrHigh a d) := by
  intro i hi
  simp only [setAddrHigh, BitVec.getLsbD_append, BitVec.getLsbD_extractLsb']
  split
  · next h => simp [h]
  · simp [show i - 16 < 4 by omega]

theorem maskLow_isLowHalf (m : VoiceMask) : IsLowHalf m (maskLow m) := fun i hi => by simp [maskLow, hi]

theorem maskHigh_isHighHalf (m : VoiceMask) : IsHighHalf m (maskHigh m) := by
  intro i hi
  simp only [maskHigh, BitVec.getLsbD_setWidth, BitVec.getLsbD_extractLsb', BitVec.truncate_eq_setWidth, hi,
    decide_true, Bool.true_and]
  congr 1
  simp
  omega

theorem addrLow_isLowHalf (a : RamAddr) : IsLowHalf a (addrLow a) := fun i hi => by simp [addrLow, hi]

theorem addrHigh_isHighHalf (a : RamAddr) : IsHighHalf a (addrHigh a) := by
  intro i hi
  simp only [addrHigh, BitVec.getLsbD_setWidth, BitVec.getLsbD_extractLsb', BitVec.truncate_eq_setWidth, hi,
    decide_true, Bool.true_and]
  congr 1
  simp
  omega

@[simp] theorem setMaskLow_setMaskLow (m : VoiceMask) (d : Half) :
    setMaskLow (setMaskLow m d) d = setMaskLow m d := by
  refine BitVec.eq_of_getLsbD_eq fun i hi => ?_
  simp only [setMaskLow, BitVec.getLsbD_append, BitVec.getLsbD_extractLsb']
  by_cases h : i < 16
  · simp [h]
  · simp [h, show i - 16 < 8 by omega]

@[simp] theorem setMaskHigh_setMaskHigh (m : VoiceMask) (d : Half) :
    setMaskHigh (setMaskHigh m d) d = setMaskHigh m d := by
  refine BitVec.eq_of_getLsbD_eq fun i hi => ?_
  simp only [setMaskHigh, BitVec.getLsbD_append, BitVec.getLsbD_extractLsb']
  by_cases h : i < 16 <;> simp [h]

@[simp] theorem setAddrLow_setAddrLow (a : RamAddr) (d : Half) :
    setAddrLow (setAddrLow a d) d = setAddrLow a d := by
  refine BitVec.eq_of_getLsbD_eq fun i hi => ?_
  simp only [setAddrLow, BitVec.getLsbD_append, BitVec.getLsbD_extractLsb']
  by_cases h : i < 16
  · simp [h]
  · simp [h, show i - 16 < 4 by omega]

@[simp] theorem setAddrHigh_setAddrHigh (a : RamAddr) (d : Half) :
    setAddrHigh (setAddrHigh a d) d = setAddrHigh a d := by
  refine BitVec.eq_of_getLsbD_eq fun i hi => ?_
  simp only [setAddrHigh, BitVec.getLsbD_append, BitVec.getLsbD_extractLsb']
  by_cases h : i < 16 <;> simp [h]

@[simp] theorem writeVolume_writeVolume (d : Half) (u : VolUnit) :
    writeVolume d (writeVolume d u) = writeVolume d u := by
  rcases writeVolume_cases d u with ⟨h, h'⟩ | ⟨h, h'⟩ <;> rw [h'] <;> unfold writeVolume <;> simp [h]

/-! ## Bits of registers -/

/-- A one-bit field is the bit. -/
theorem isSet_bit (b : Nat) (d : Half) : (BitField.isSet ⟨b, b⟩ d) = d.getLsbD b := by
  simp only [BitField.isSet, BitField.of, BitVec.getLsbD, Nat.testBit, Nat.sub_self,
    Nat.shiftRight_eq_div_pow, Nat.one_and_eq_mod_two]
  simp [bne]

theorem irqEnabled_eq (k : Core) : k.irqEnabled = k.attr.getLsbD 6 := isSet_bit 6 _

theorem effectEnabled_eq (k : Core) : k.effectEnabled = k.attr.getLsbD 7 := isSet_bit 7 _

theorem admaActive_eq (k : Core) (c : CoreId) : k.admaActive c = k.admas.getLsbD c.num := isSet_bit _ _

/-! ## The tables of reverb registers -/

@[simp] theorem core_setOff_setOff (k : Core) (o : RvbOffset) (i : Side) (x y : RamAddr) :
    (k.setOff o i x).setOff o i y = k.setOff o i y := by
  simp [Core.setOff]

@[simp] theorem core_setCoef_setCoef (k : Core) (n : RvbCoef) (x y : Half) :
    (k.setCoef n x).setCoef n y = k.setCoef n y := by
  simp [Core.setCoef]

end Sys2Proof.Machine
end

