-- ==== Sys2Proof/Laws/Signals.lean ====
section
/-! SUPPORT. How many interrupt signals a part of a tick sends (60_exceptions R443, R444), counted over the addresses it tests. -/

namespace Sys2Proof.Machine

/-- `n` signals of core `c` are sent and its cause bit is set if there is one; the other cause bit, the half bit and both cores stay. The RAM is left open. -/
structure Signals (c : CoreId) (n : Nat) (e e' : Engine) : Prop where
  log : e'.log = List.replicate n (.irq c) ++ e.log
  cause : ∀ c', e'.irqstat.cause c' = true ↔ e.irqstat.cause c' = true ∨ c' = c ∧ 0 < n
  half : e'.irqstat.half = e.irqstat.half
  cores : ∀ c', e'.core c' = e.core c'

theorem Signals.refl (c : CoreId) (e : Engine) : Signals c 0 e e :=
  ⟨rfl, by simp, rfl, fun _ => rfl⟩

theorem Signals.trans {c : CoreId} {m n : Nat} {a b d : Engine} (h : Signals c m a b) (g : Signals c n b d) :
    Signals c (m + n) a d := by
  refine ⟨?_, fun c' => ?_, g.half.trans h.half, fun c' => (g.cores c').trans (h.cores c')⟩
  · rw [g.log, h.log, ← List.append_assoc, List.replicate_append_replicate, Nat.add_comm]
  · rw [g.cause, h.cause, Nat.add_pos_iff_pos_or_pos, or_assoc, ← and_or_left]

theorem signals_store (c : CoreId) (e : Engine) (a : RamAddr) (d : Half) : Signals c 0 e (e.store a d) :=
  ⟨rfl, by simp, rfl, fun c' => by cases c' <;> rfl⟩

/-- Whether the test of address `a` for unit `src` hits (60_exceptions R443). -/
def irqHit (cfg : Config) (k : Core) (src : IrqSource) (a : RamAddr) : Bool :=
  cfg.irqSources.has src && k.irqEnabled && a == k.irqa

/-- One test sends one signal exactly on a hit. -/
theorem signals_irqTest (cfg : Config) (c : CoreId) (a : RamAddr) (src : IrqSource) (e : Engine) :
    Signals c (if irqHit cfg (e.core c) src a then 1 else 0) e (irqTest cfg c a src e) := by
  unfold irqTest irqHit
  split
  · exact ⟨rfl, fun c' => by cases c <;> cases c' <;> simp [raiseIrq, IrqStat.cause, IrqStat.setCause],
      by simp, by simp⟩
  · exact .refl ..

/-- The addresses of a list, tested in order, send one signal for each that hits. -/
theorem signals_irqTests (cfg : Config) (c : CoreId) (src : IrqSource) {α : Type} (addr : Core → α → RamAddr)
    (l : List α) (e : Engine) :
    Signals c (l.countP fun x => irqHit cfg (e.core c) src (addr (e.core c) x)) e
      (l.foldl (fun e x => irqTest cfg c (addr (e.core c) x) src e) e) := by
  induction l generalizing e with
  | nil => exact .refl ..
  | cons x l ih =>
    have h := (signals_irqTest cfg c (addr (e.core c) x) src e).trans (ih _)
    simp only [irqTest_core] at h
    rw [List.countP_cons, Nat.add_comm]
    exact h

/-- No address hits where the unit is no source or the interrupt is off; else exactly those equal to `IRQA` hit. -/
theorem countP_irqHit (cfg : Config) (k : Core) (src : IrqSource) {α : Type} (addr : α → RamAddr) (l : List α) :
    (l.countP fun x => irqHit cfg k src (addr x)) =
      if cfg.irqSources.has src = true ∧ k.attr.getLsbD 6 = true then l.countP fun x => addr x == k.irqa else 0 := by
  unfold irqHit
  rw [irqEnabled_eq]
  cases cfg.irqSources.has src <;> cases k.attr.getLsbD 6 <;> simp

end Sys2Proof.Machine
end

