-- ==== Sys2Proof/Laws/Dma.lean ====
section
/-! SUPPORT. What the words and bursts of the DMA engine do. -/

namespace Sys2Proof.Machine

/-! ## Addresses -/

@[simp] theorem wrapAdd_zero (a : RamAddr) : wrapAdd a 0 = a := by simp [wrapAdd]

theorem wrapAdd_wrapAdd (a : RamAddr) (m n : Nat) : wrapAdd (wrapAdd a m) n = wrapAdd a (m + n) := by
  unfold wrapAdd
  rw [BitVec.ofNat_add, BitVec.add_assoc]

theorem wrapAdd_injective (a : RamAddr) {i j : Nat} (hi : i < 2 ^ 20) (hj : j < 2 ^ 20)
    (h : wrapAdd a i = wrapAdd a j) : i = j := by
  have h2 := congrArg BitVec.toNat (add_left_cancel h)
  simp only [BitVec.toNat_ofNat] at h2
  rwa [Nat.mod_eq_of_lt hi, Nat.mod_eq_of_lt hj] at h2

/-! ## One address test -/

/-- The record after an address test: one signal exactly on a hit. -/
theorem irqTest_log (cfg : Config) (c : CoreId) (a : RamAddr) (src : IrqSource) (e : Engine) :
    (irqTest cfg c a src e).log = (if irqHit cfg (e.core c) src a then [.irq c] else []) ++ e.log := by
  rw [(signals_irqTest cfg c a src e).log]
  split <;> rfl

/-- The cause bits after an address test. -/
theorem irqTest_cause (cfg : Config) (c : CoreId) (a : RamAddr) (src : IrqSource) (e : Engine) (c' : CoreId) :
    (irqTest cfg c a src e).irqstat.cause c' = true ↔
      e.irqstat.cause c' = true ∨
        c' = c ∧ cfg.irqSources.has src = true ∧ (e.core c).attr.getLsbD 6 = true ∧ a = (e.core c).irqa := by
  rcases irqTest_cases cfg c a src e with ⟨h, h1, h2, h3⟩ | ⟨h, h1⟩ <;> rw [h]
  · rw [irqEnabled_eq] at h2
    by_cases hc : c' = c
    · subst hc
      exact ⟨fun _ => .inr ⟨rfl, h1, h2, h3⟩, fun _ => by simp⟩
    · rw [raiseIrq_irqstat, irqStat_cause_setCause_other _ _ hc]
      exact ⟨.inl, fun g => g.elim id fun g => absurd g.1 hc⟩
  · rw [irqEnabled_eq] at h1
    exact ⟨.inl, fun g => g.elim id fun g => absurd g.2 h1⟩

/-! ## The host's stream (46_dma R401) -/

/-- A word that the stream holds is its own element. -/
theorem hostWord_of_lt (missing : Nat → Half) {d : Dma} {i : Nat} (h : i < d.stream.length) :
    d.hostWord missing i = d.stream.getD i 0 := by
  simp [Dma.hostWord, h]

/-! ## Ordinary bursts (46_dma R407) -/

@[simp] theorem moveWord_core (missing : Nat → Half) (c c' : CoreId) (e : Engine) :
    (moveWord missing c e).core c' = e.core c' := by
  unfold moveWord
  simp only
  split <;> simp

@[simp] theorem moveWord_irqstat (missing : Nat → Half) (c : CoreId) (e : Engine) :
    (moveWord missing c e).irqstat = e.irqstat := by
  unfold moveWord
  simp only
  split <;> rfl

@[simp] theorem burstWord_core_same (cfg : Config) (missing : Nat → Half) (c : CoreId) (e : Engine) :
    (burstWord cfg missing c e).core c = (e.core c).advanceCursors := by
  simp [burstWord]

theorem burstWord_core_other (cfg : Config) (missing : Nat → Half) {c c' : CoreId} (e : Engine) (h : c' ≠ c) :
    (burstWord cfg missing c e).core c' = e.core c' := by
  unfold burstWord
  rw [engine_updCore_core_other _ _ h]
  simp

/-- A word of a write transfer: the host's word at the RAM cursor. -/
theorem burstWord_write (cfg : Config) (missing : Nat → Half) (c : CoreId) (e : Engine)
    (hd : (e.core c).dma.dir = .write) :
    (burstWord cfg missing c e).ram =
        ramWrite e.ram (e.core c).taddr ((e.core c).dma.hostWord missing (e.core c).dma.hostPos) ∧
      (burstWord cfg missing c e).log =
        (if irqHit cfg (e.core c) .dma (e.core c).taddr then [.irq c] else []) ++ e.log := by
  unfold burstWord
  rw [engine_updCore_ram, engine_updCore_log, irqTest_ram, irqTest_log, moveWord_core]
  unfold moveWord
  simp [hd]

/-- A word of a read transfer: the RAM's word at the cursor, delivered before its address test. -/
theorem burstWord_read (cfg : Config) (missing : Nat → Half) (c : CoreId) (e : Engine)
    (hd : (e.core c).dma.dir = .read) :
    (burstWord cfg missing c e).ram = e.ram ∧
      (burstWord cfg missing c e).log =
        (if irqHit cfg (e.core c) .dma (e.core c).taddr then [.irq c] else []) ++
          .dmaWord c (ramRead e.ram (e.core c).taddr) :: e.log := by
  unfold burstWord
  rw [engine_updCore_ram, engine_updCore_log, irqTest_ram, irqTest_log, moveWord_core]
  unfold moveWord
  simp only [hd]
  exact ⟨rfl, rfl⟩

/-- `n` words of an ordinary burst: both cursors move on by `n`, nothing else of the cores changes, and the cause bit is set exactly if a word moved lies at the interrupt address. -/
structure BurstFrame (cfg : Config) (c : CoreId) (n : Nat) (e e' : Engine) : Prop where
  core : e'.core c = { e.core c with
    taddr := wrapAdd (e.core c).taddr n
    dma := { (e.core c).dma with hostPos := (e.core c).dma.hostPos + n } }
  other : ∀ c', c' ≠ c → e'.core c' = e.core c'
  half : e'.irqstat.half = e.irqstat.half
  cause : ∀ c', e'.irqstat.cause c' = true ↔
    e.irqstat.cause c' = true ∨
      c' = c ∧ cfg.irqSources.dma = true ∧ (e.core c).attr.getLsbD 6 = true ∧
        ∃ i, i < n ∧ wrapAdd (e.core c).taddr i = (e.core c).irqa

theorem burstFrame_loop (cfg : Config) (missing : Nat → Half) (c : CoreId) (n : Nat) (e : Engine) :
    BurstFrame cfg c n e (burstLoop cfg missing c n e) := by
  induction n generalizing e with
  | zero => exact ⟨by rw [wrapAdd_zero]; rfl, fun _ _ => rfl, rfl, fun c' => by simp [burstLoop]⟩
  | succ n ih =>
    have h := ih (burstWord cfg missing c e)
    rw [burstLoop]
    refine ⟨?_, fun c' hc' => by rw [h.other c' hc', burstWord_core_other _ _ _ hc'], ?_, fun c' => ?_⟩
    · rw [h.core, burstWord_core_same]
      show ({ e.core c with
        taddr := wrapAdd (wrapAdd (e.core c).taddr 1) n
        dma := { (e.core c).dma with hostPos := (e.core c).dma.hostPos + 1 + n } } : Core) = _
      rw [wrapAdd_wrapAdd, Nat.add_comm 1 n, Nat.add_assoc, Nat.add_comm 1 n]
    · rw [h.half]
      simp [burstWord]
    · have hw : (burstWord cfg missing c e).irqstat.cause c' = true ↔ e.irqstat.cause c' = true ∨
          c' = c ∧ cfg.irqSources.dma = true ∧ (e.core c).attr.getLsbD 6 = true ∧
            (e.core c).taddr = (e.core c).irqa := by
        unfold burstWord
        rw [engine_updCore_irqstat, irqTest_cause, moveWord_irqstat, moveWord_core]
        rfl
      rw [h.cause, hw, burstWord_core_same]
      show (_ ∨ _) ∨ c' = c ∧ cfg.irqSources.dma = true ∧ (e.core c).attr.getLsbD 6 = true ∧
        (∃ i, i < n ∧ wrapAdd (wrapAdd (e.core c).taddr 1) i = (e.core c).irqa) ↔ _
      constructor
      · rintro ((h | ⟨h1, h2, h3, h4⟩) | ⟨h1, h2, h3, i, h4, h5⟩)
        · exact .inl h
        · exact .inr ⟨h1, h2, h3, 0, by omega, by rw [wrapAdd_zero]; exact h4⟩
        · exact .inr ⟨h1, h2, h3, i + 1, by omega, by rwa [wrapAdd_wrapAdd, Nat.add_comm] at h5⟩
      · rintro (h | ⟨h1, h2, h3, i, h4, h5⟩)
        · exact .inl (.inl h)
        · cases i with
          | zero => exact .inl (.inr ⟨h1, h2, h3, by rwa [wrapAdd_zero] at h5⟩)
          | succ i => exact .inr ⟨h1, h2, h3, i, by omega, by rwa [wrapAdd_wrapAdd, Nat.add_comm]⟩

/-- What the words of a write transfer leave in RAM, and that they record one signal for each that lies at the interrupt address. -/
theorem burstLoop_write (cfg : Config) (missing : Nat → Half) (c : CoreId) (n : Nat) (e : Engine)
    (hd : (e.core c).dma.dir = .write) (hn : n ≤ 32) :
    (∀ i, i < n → ramRead (burstLoop cfg missing c n e).ram (wrapAdd (e.core c).taddr i) =
      (e.core c).dma.hostWord missing ((e.core c).dma.hostPos + i)) ∧
    (∀ b, (∀ i, i < n → b / 2 ≠ (wrapAdd (e.core c).taddr i).toNat) →
      readByte? (burstLoop cfg missing c n e).ram b = readByte? e.ram b) ∧
    (∀ a, (∀ i, i < n → a ≠ wrapAdd (e.core c).taddr i) →
      ramRead (burstLoop cfg missing c n e).ram a = ramRead e.ram a) ∧
    (burstLoop cfg missing c n e).log =
      List.replicate ((List.range n).countP fun i => irqHit cfg (e.core c) .dma (wrapAdd (e.core c).taddr i))
        (.irq c) ++ e.log := by
  induction n generalizing e with
  | zero => exact ⟨fun i h => by omega, fun _ _ => rfl, fun _ _ => rfl, rfl⟩
  | succ n ih =>
    obtain ⟨hr, hl⟩ := burstWord_write cfg missing c e hd
    have h := ih (burstWord cfg missing c e) (by rw [burstWord_core_same]; exact hd) (by omega)
    have ht : (e.core c).advanceCursors.taddr = wrapAdd (e.core c).taddr 1 := rfl
    have hw : ∀ i, (e.core c).advanceCursors.dma.hostWord missing i = (e.core c).dma.hostWord missing i :=
      fun _ => rfl
    have hp : (e.core c).advanceCursors.dma.hostPos = (e.core c).dma.hostPos + 1 := rfl
    have hh : ∀ a, irqHit cfg (e.core c).advanceCursors .dma a = irqHit cfg (e.core c) .dma a := fun _ => rfl
    simp only [burstWord_core_same, hr, hl, ht, hp, hw, hh, wrapAdd_wrapAdd] at h
    rw [burstLoop]
    refine ⟨fun i hi => ?_, fun b hb => ?_, fun a ha => ?_, ?_⟩
    · cases i with
      | zero =>
        simp only [wrapAdd_zero, Nat.add_zero]
        rw [h.2.2.1, ramRead_ramWrite_same]
        intro i hi g
        have := wrapAdd_injective (e.core c).taddr (i := 0) (j := 1 + i) (by omega) (by omega)
          (by rw [wrapAdd_zero]; exact g)
        omega
      | succ i =>
        have := h.1 i (by omega)
        rw [Nat.add_comm 1 i] at this
        rw [this]
        congr 1
        omega
    · rw [h.2.1, readByte_ramWrite_other]
      · have := hb 0 (by omega)
        rwa [wrapAdd_zero] at this
      · intro i hi
        have := hb (i + 1) (by omega)
        rwa [Nat.add_comm i 1] at this
    · rw [h.2.2.1, ramRead_ramWrite_other]
      · have := ha 0 (by omega)
        rwa [wrapAdd_zero] at this
      · intro i hi
        have := ha (i + 1) (by omega)
        rwa [Nat.add_comm i 1] at this
    · rw [h.2.2.2, List.range_succ_eq_map, List.countP_cons, List.countP_map, wrapAdd_zero,
        ← List.replicate_append_replicate, List.append_assoc]
      simp only [Function.comp_def, Nat.succ_eq_add_one, Nat.add_comm 1]
      split <;> rfl

/-- What the words of a read transfer deliver, each followed by its signal where it lies at the interrupt address; they store nothing. -/
theorem burstLoop_read (cfg : Config) (missing : Nat → Half) (c : CoreId) (n : Nat) (e : Engine)
    (hd : (e.core c).dma.dir = .read) :
    (burstLoop cfg missing c n e).ram = e.ram ∧
    (burstLoop cfg missing c n e).log =
      ((List.range n).flatMap fun i => .dmaWord c (ramRead e.ram (wrapAdd (e.core c).taddr i)) ::
        if irqHit cfg (e.core c) .dma (wrapAdd (e.core c).taddr i) then [.irq c] else []).reverse ++ e.log := by
  induction n generalizing e with
  | zero => exact ⟨rfl, rfl⟩
  | succ n ih =>
    obtain ⟨hr, hl⟩ := burstWord_read cfg missing c e hd
    have h := ih (burstWord cfg missing c e) (by rw [burstWord_core_same]; exact hd)
    have ht : (e.core c).advanceCursors.taddr = wrapAdd (e.core c).taddr 1 := rfl
    have hh : ∀ a, irqHit cfg (e.core c).advanceCursors .dma a = irqHit cfg (e.core c) .dma a := fun _ => rfl
    simp only [burstWord_core_same, hr, hl, ht, hh, wrapAdd_wrapAdd] at h
    rw [burstLoop]
    refine ⟨h.1, ?_⟩
    rw [h.2, List.range_succ_eq_map, List.flatMap_cons, List.flatMap_map, List.reverse_append, wrapAdd_zero,
      List.append_assoc]
    simp only [Nat.succ_eq_add_one, Nat.add_comm 1]
    split <;> rfl

/-! ## Auto-DMA bursts (46_dma R411) -/

@[simp] theorem admaLoop_core (cfg : Config) (missing : Nat → Half) (c c' : CoreId) (base : RamAddr) (n i : Nat)
    (e : Engine) : (admaLoop cfg missing c base n i e).core c' = e.core c' := by
  induction n generalizing i e with
  | zero => rfl
  | succ n ih => exact (ih _ _).trans (by simp)

/-- The words of an Auto-DMA burst send one signal for each that lies at the interrupt address. -/
theorem signals_admaLoop (cfg : Config) (missing : Nat → Half) (c : CoreId) (base : RamAddr) (n i : Nat)
    (e : Engine) :
    Signals c ((List.range n).countP fun j => irqHit cfg (e.core c) .dma (wrapAdd base (i + j))) e
      (admaLoop cfg missing c base n i e) := by
  induction n generalizing i e with
  | zero => exact .refl ..
  | succ n ih =>
    have h := ((signals_store c e (wrapAdd base i) ((e.core c).dma.hostWord missing ((e.core c).dma.hostPos + i))).trans
      (signals_irqTest cfg c (wrapAdd base i) .dma _)).trans (ih (i + 1) _)
    simp only [irqTest_core, engine_store_core] at h
    rw [List.range_succ_eq_map, List.countP_cons, List.countP_map, Nat.add_comm]
    simp only [Function.comp_def, Nat.succ_eq_add_one, Nat.add_zero, ← Nat.add_assoc, Nat.add_right_comm i _ 1]
    rwa [Nat.zero_add] at h

/-- The cause bits after the words of an Auto-DMA burst. -/
theorem admaLoop_cause (cfg : Config) (missing : Nat → Half) (c : CoreId) (base : RamAddr) (n i : Nat)
    (e : Engine) (c' : CoreId) :
    (admaLoop cfg missing c base n i e).irqstat.cause c' = true ↔
      e.irqstat.cause c' = true ∨
        c' = c ∧ cfg.irqSources.dma = true ∧ (e.core c).attr.getLsbD 6 = true ∧
          ∃ j, i ≤ j ∧ j < i + n ∧ wrapAdd base j = (e.core c).irqa := by
  induction n generalizing i e with
  | zero => exact ⟨.inl, fun h => h.elim id fun ⟨_, _, _, j, h1, h2, _⟩ => by omega⟩
  | succ n ih =>
    have h := ih (i + 1) (irqTest cfg c (wrapAdd base i) .dma
      (e.store (wrapAdd base i) ((e.core c).dma.hostWord missing ((e.core c).dma.hostPos + i))))
    rw [irqTest_cause, irqTest_core, engine_store_core] at h
    refine h.trans ?_
    show (e.irqstat.cause c' = true ∨ c' = c ∧ cfg.irqSources.dma = true ∧ (e.core c).attr.getLsbD 6 = true ∧
      wrapAdd base i = (e.core c).irqa) ∨ _ ↔ _
    constructor
    · rintro ((h | ⟨h1, h2, h3, h4⟩) | ⟨h1, h2, h3, j, h4, h5, h6⟩)
      · exact .inl h
      · exact .inr ⟨h1, h2, h3, i, by omega, by omega, h4⟩
      · exact .inr ⟨h1, h2, h3, j, by omega, by omega, h6⟩
    · rintro (h | ⟨h1, h2, h3, j, h4, h5, h6⟩)
      · exact .inl (.inl h)
      · by_cases hj : j = i
        · subst hj
          exact .inl (.inr ⟨h1, h2, h3, h6⟩)
        · exact .inr ⟨h1, h2, h3, j, by omega, by omega, h6⟩

/-- What the words of an Auto-DMA burst leave in RAM. -/
theorem admaLoop_ram (cfg : Config) (missing : Nat → Half) (c : CoreId) (base : RamAddr) (n i : Nat)
    (e : Engine) (hn : i + n ≤ 32) :
    (∀ j, i ≤ j → j < i + n → ramRead (admaLoop cfg missing c base n i e).ram (wrapAdd base j) =
      (e.core c).dma.hostWord missing ((e.core c).dma.hostPos + j)) ∧
    (∀ b, (∀ j, i ≤ j → j < i + n → b / 2 ≠ (wrapAdd base j).toNat) →
      readByte? (admaLoop cfg missing c base n i e).ram b = readByte? e.ram b) ∧
    (∀ a, (∀ j, i ≤ j → j < i + n → a ≠ wrapAdd base j) →
      ramRead (admaLoop cfg missing c base n i e).ram a = ramRead e.ram a) := by
  induction n generalizing i e with
  | zero => exact ⟨fun j _ _ => by omega, fun _ _ => rfl, fun _ _ => rfl⟩
  | succ n ih =>
    have h := ih (i + 1) (irqTest cfg c (wrapAdd base i) .dma
      (e.store (wrapAdd base i) ((e.core c).dma.hostWord missing ((e.core c).dma.hostPos + i)))) (by omega)
    simp only [irqTest_core, irqTest_ram, engine_store_core, engine_store_ram] at h
    have heq : admaLoop cfg missing c base (n + 1) i e = admaLoop cfg missing c base n (i + 1)
      (irqTest cfg c (wrapAdd base i) .dma
        (e.store (wrapAdd base i) ((e.core c).dma.hostWord missing ((e.core c).dma.hostPos + i)))) := rfl
    rw [heq]
    refine ⟨fun j h1 h2 => ?_, fun b hb => ?_, fun a ha => ?_⟩
    · by_cases hj : j = i
      · subst hj
        rw [h.2.2, ramRead_ramWrite_same]
        intro j' g1 g2 g3
        have := wrapAdd_injective base (by omega) (by omega) g3
        omega
      · exact h.1 j (by omega) (by omega)
    · rw [h.2.1 b fun j g1 g2 => hb j (by omega) (by omega), readByte_ramWrite_other]
      exact hb i (by omega) (by omega)
    · rw [h.2.2 a fun j g1 g2 => ha j (by omega) (by omega), ramRead_ramWrite_other]
      exact ha i (by omega) (by omega)

/-- The core at the end of an Auto-DMA burst of `n` words, its countdown armed again. -/
theorem endAdmaBurst_setCount (k : Core) (n : Nat) (x y : Int) :
    ((k.setCount x).endAdmaBurst n).setCount y = { k with
      dma := { k.dma with size := k.dma.size - n, hostPos := k.dma.hostPos + n, count := y }
      adma :=
        if k.adma.left = 1 ∧ k.adma.pending = true then
          (if 0 < k.dma.size - n then ⟨16, !k.outPos.getLsbD 8, false⟩ else ⟨0, k.adma.half, false⟩)
        else { k.adma with left := k.adma.left - 1 } } := by
  have hleft : k.adma.left - 1 = 0 ↔ k.adma.left = 1 :=
    ⟨fun h => sub_eq_zero.1 h, fun h => by rw [h]; rfl⟩
  let k1 := (k.setCount x).updDma fun d => { d with hostPos := d.hostPos + n, size := d.size - n }
  let k2 := k1.updAdma fun m => { m with left := m.left - 1 }
  have h : ((k.setCount x).endAdmaBurst n).setCount y = k2.grantPending.setCount y := rfl
  rw [h]
  unfold Core.grantPending
  simp only
  by_cases hp : k.adma.left = 1 ∧ k.adma.pending = true
  · have h0 := hleft.2 hp.1
    rw [if_pos (show k2.adma.left = 0 ∧ k2.adma.pending = true from ⟨h0, hp.2⟩), if_pos hp]
    by_cases hs : 0 < k.dma.size - n
    · rw [if_pos (show 0 < (k2.updAdma fun m => { m with pending := false }).dma.size from hs), if_pos hs]
      simp only [k2, k1, Core.grantSequence, Core.updDma, Core.updAdma, Core.setCount, Core.idleHalf]
    · rw [if_neg (show ¬ 0 < (k2.updAdma fun m => { m with pending := false }).dma.size from hs), if_neg hs]
      simp only [k2, k1, Core.updDma, Core.updAdma, Core.setCount, h0]
  · rw [if_neg (show ¬ (k2.adma.left = 0 ∧ k2.adma.pending = true) from fun h => hp ⟨hleft.1 h.1, h.2⟩),
      if_neg hp]
    rfl

/-! ## RUNDMA (46_dma R405) -/

/-- The five outcomes of `RUNDMA`. -/
theorem runDma_cases (cfg : Config) (missing : Nat → Half) (c : CoreId) (cyc : Nat) (e : Engine) :
    let k := e.core c
    let e1 := e.updCore c fun k => k.setCount (k.dma.count - cyc)
    (k.dma.size = 0 ∧ runDma cfg missing c cyc e = e) ∨
    (k.dma.size ≠ 0 ∧ 0 < k.dma.count - cyc ∧ runDma cfg missing c cyc e = e1) ∨
    (k.dma.size ≠ 0 ∧ k.dma.count - cyc ≤ 0 ∧ (k.dma.dir = .write ∧ k.admas.getLsbD c.num = true) ∧
      k.adma.left = 0 ∧ runDma cfg missing c cyc e = e1.updCore c fun k => k.setCount 0) ∨
    (k.dma.size ≠ 0 ∧ k.dma.count - cyc ≤ 0 ∧ (k.dma.dir = .write ∧ k.admas.getLsbD c.num = true) ∧
      k.adma.left ≠ 0 ∧ runDma cfg missing c cyc e = finishBurst cfg c (admaBurst cfg missing c e1)) ∨
    (k.dma.size ≠ 0 ∧ k.dma.count - cyc ≤ 0 ∧ ¬(k.dma.dir = .write ∧ k.admas.getLsbD c.num = true) ∧
      runDma cfg missing c cyc e = finishBurst cfg c (burst cfg missing c e1)) := by
  intro k e1
  have hk : e1.core c = k.setCount (k.dma.count - cyc) := engine_updCore_core_same ..
  have hd : (e1.core c).dma.dir = k.dma.dir := by rw [hk]; rfl
  have ha : (e1.core c).admaActive c = k.admas.getLsbD c.num := by rw [admaActive_eq, hk]; rfl
  have hl : (e1.core c).adma.left = k.adma.left := by rw [hk]; rfl
  have hc : (e1.core c).dma.count = k.dma.count - cyc := by rw [hk]; rfl
  have h0 : runDma cfg missing c cyc e = if k.dma.size = 0 then e else
      if 0 < k.dma.count - (cyc : Int) then e1 else
        if k.dma.dir = .write ∧ k.admas.getLsbD c.num = true then
          if k.adma.left = 0 then e1.updCore c fun k => k.setCount 0
          else finishBurst cfg c (admaBurst cfg missing c e1)
        else finishBurst cfg c (burst cfg missing c e1) := by
    rw [← hd, ← ha, ← hl, ← hc]
    rfl
  rw [h0]
  by_cases h1 : k.dma.size = 0
  · exact .inl ⟨h1, if_pos h1⟩
  rw [if_neg h1]
  by_cases h2 : 0 < k.dma.count - (cyc : Int)
  · exact .inr (.inl ⟨h1, h2, if_pos h2⟩)
  rw [if_neg h2]
  by_cases h3 : k.dma.dir = .write ∧ k.admas.getLsbD c.num = true
  · rw [if_pos h3]
    by_cases h4 : k.adma.left = 0
    · exact .inr (.inr (.inl ⟨h1, by omega, h3, h4, if_pos h4⟩))
    · exact .inr (.inr (.inr (.inl ⟨h1, by omega, h3, h4, if_neg h4⟩)))
  · exact .inr (.inr (.inr (.inr ⟨h1, by omega, h3, if_neg h3⟩)))

/-- The end of a burst: the countdown armed again, and completion signalled exactly if no word remains. -/
theorem finishBurst_spec (cfg : Config) (c : CoreId) (e : Engine) :
    (finishBurst cfg c e).ram = e.ram ∧ (finishBurst cfg c e).irqstat = e.irqstat ∧
    (finishBurst cfg c e).core c = (e.core c).setCount cfg.dmaBurstCycles.val ∧
    (∀ c', c' ≠ c → (finishBurst cfg c e).core c' = e.core c') ∧
    (finishBurst cfg c e).log = (if (e.core c).dma.size = 0 then [.dmaDone c] else []) ++ e.log := by
  have h : finishBurst cfg c e = if (e.core c).dma.size = 0 then
      raiseDmaDone c (e.updCore c fun k => k.setCount cfg.dmaBurstCycles.val)
      else e.updCore c fun k => k.setCount cfg.dmaBurstCycles.val := by
    unfold finishBurst
    simp only [engine_updCore_core_same]
    rfl
  rw [h]
  split
  · exact ⟨by simp, by simp, by simp, fun c' hc => by simp [engine_updCore_core_other _ _ hc], by simp⟩
  · exact ⟨by simp, by simp, by simp, fun c' hc => by simp [engine_updCore_core_other _ _ hc], by simp⟩

end Sys2Proof.Machine
end

