-- ==== Sys2Proof/Laws/Envelope.lean ====
section
/-! SUPPORT. What one step of an envelope or of a volume unit can do. -/

namespace Sys2Proof.Machine

/-! ## Levels -/

theorem half_toInt_lt (x : Half) : x.toInt < 0x8000 := by
  have := BitVec.toInt_lt (x := x)
  simpa using this

theorem half_le_toInt (x : Half) : -0x8000 ≤ x.toInt := by
  have := BitVec.le_toInt (x := x)
  simpa using this

/-- An integer in range is the value of its bits. -/
theorem toInt_ofInt_half {i : Int} (h1 : -0x8000 ≤ i) (h2 : i < 0x8000) : (BitVec.ofInt 16 i).toInt = i := by
  rw [BitVec.toInt_ofInt, Int.bmod_def]
  simp only [Nat.reducePow, Nat.cast_ofNat]
  split <;> omega

theorem toInt_clamp16 (i : Int) : (clamp16 i).toInt = clamp i (-0x8000) 0x7FFF := by
  unfold clamp16
  apply toInt_ofInt_half <;> unfold clamp <;> omega

/-! ## Rates -/

theorem attackRate_shift_lt (r : Half) : (attackRate r).shift < 32 := bitField_of_lt attackShift r

theorem decayRate_shift_lt (r : Half) : (decayRate r).shift < 32 :=
  Nat.lt_of_lt_of_le (bitField_of_lt decayShift r) (by decide)

theorem sustainRate_shift_lt (r : Half) : (sustainRate r).shift < 32 := bitField_of_lt sustainShift r

theorem releaseRate_shift_lt (r : Half) : (releaseRate r).shift < 32 := bitField_of_lt releaseShift r

theorem sweepRate_shift_lt (r : Half) : (sweepRate r).shift < 32 := bitField_of_lt volSwShift r

theorem effectiveShift_le (r : Rate) (level : Int) : r.effectiveShift level ≤ r.shift + 2 := by
  unfold Rate.effectiveShift
  split <;> omega

/-! ## One step -/

/-- Every step leaves the fixed-point number inside its range. -/
theorem envStepFixed_range (F : Nat) (r : Rate) (level : Int) (frac : Nat) :
    0 ≤ envStepFixed F r level frac ∧ envStepFixed F r level frac ≤ 0x7FFF * 2 ^ F := by
  have h : (0 : Int) ≤ 0x7FFF * 2 ^ F := Int.mul_nonneg (by decide) (Int.pow_nonneg (by decide))
  simp only [envStepFixed, clamp]
  omega

/-- All one step does: the level and the fraction are the two parts of the fixed-point number. -/
theorem envStep_spec (F : Nat) (r : Rate) (level : Half) (frac : Nat) :
    (envStep F r level frac).1.toInt * 2 ^ F + (envStep F r level frac).2 =
        envStepFixed F r level.toInt frac ∧
      0 ≤ (envStep F r level frac).1.toInt ∧ (envStep F r level frac).1.toInt ≤ 0x7FFF ∧
      (envStep F r level frac).2 < 2 ^ F := by
  obtain ⟨h0, h1⟩ := envStepFixed_range F r level.toInt frac
  have hp : (0 : Int) < 2 ^ F := Int.pow_pos (by decide)
  have hd0 : 0 ≤ envStepFixed F r level.toInt frac / 2 ^ F := Int.ediv_nonneg h0 (by omega)
  have hd1 : envStepFixed F r level.toInt frac / 2 ^ F ≤ 0x7FFF :=
    Int.ediv_le_of_le_mul hp h1
  have hm0 : 0 ≤ envStepFixed F r level.toInt frac % 2 ^ F := Int.emod_nonneg _ (by omega)
  have hm1 : envStepFixed F r level.toInt frac % 2 ^ F < 2 ^ F := Int.emod_lt_of_pos _ hp
  have hl : (envStep F r level frac).1.toInt = envStepFixed F r level.toInt frac / 2 ^ F :=
    toInt_ofInt_half (by omega) (by omega)
  have hf : ((envStep F r level frac).2 : Int) = envStepFixed F r level.toInt frac % 2 ^ F :=
    Int.toNat_of_nonneg hm0
  refine ⟨?_, by omega, by omega, ?_⟩
  · rw [hl, hf, Int.mul_comm]
    exact Int.mul_ediv_add_emod _ _
  · have : ((envStep F r level frac).2 : Int) < ((2 ^ F : Nat) : Int) := by
      rw [hf]
      simpa using hm1
    exact_mod_cast this

@[simp] theorem envelope_move_phase (e : Envelope) (F : Nat) (r : Rate) : (e.move F r).phase = e.phase := rfl

@[simp] theorem envelope_move_level (e : Envelope) (F : Nat) (r : Rate) :
    (e.move F r).level = (envStep F r e.level e.frac).1 := rfl

@[simp] theorem envelope_move_frac (e : Envelope) (F : Nat) (r : Rate) :
    (e.move F r).frac = (envStep F r e.level e.frac).2 := rfl

/-- All a volume tick can do. -/
theorem volTick_cases (F : Nat) (u : VolUnit) :
    (volSweep.isSet u.reg = false ∧ volTick F u = u) ∨
    (volSweep.isSet u.reg = true ∧
      volTick F u = { u with
        level := (envStep F (sweepRate u.reg) u.level u.frac).1
        frac := (envStep F (sweepRate u.reg) u.level u.frac).2 }) := by
  unfold volTick
  cases h : volSweep.isSet u.reg <;> simp

theorem volTick_frac_lt {F : Nat} {u : VolUnit} (h : u.frac < 2 ^ F) : (volTick F u).frac < 2 ^ F := by
  rcases volTick_cases F u with ⟨-, h'⟩ | ⟨-, h'⟩ <;> rw [h']
  · exact h
  · exact (envStep_spec F _ _ _).2.2.2

/-- All an envelope tick can do: stay Stopped, advance the phase, or move the level at the phase's rate. -/
theorem envTick_cases (F : Nat) (a1 a2 : Half) (e : Envelope) :
    (e.phase = .stopped ∧ envTick F a1 a2 e = (e, false)) ∨
    (e.phase = .attack ∧ 0x7FFF ≤ e.level.toInt ∧ envTick F a1 a2 e = ({ e with phase := .decay }, true)) ∨
    (e.phase = .attack ∧ e.level.toInt < 0x7FFF ∧ envTick F a1 a2 e = (e.move F (attackRate a1), true)) ∨
    (e.phase = .decay ∧ asr e.level.toInt 11 ≤ sustainLevel.of a1 ∧
      envTick F a1 a2 e = ({ e with phase := .sustain }, true)) ∨
    (e.phase = .decay ∧ ¬asr e.level.toInt 11 ≤ sustainLevel.of a1 ∧
      envTick F a1 a2 e = (e.move F (decayRate a1), true)) ∨
    (e.phase = .sustain ∧ envTick F a1 a2 e = (e.move F (sustainRate a2), true)) ∨
    (e.phase = .release ∧ e.level = 0 ∧
      envTick F a1 a2 e = ({ e with phase := .stopped, frac := 0 }, false)) ∨
    (e.phase = .release ∧ e.level ≠ 0 ∧ envTick F a1 a2 e = (e.move F (releaseRate a2), true)) := by
  rcases e with ⟨ph, l, f⟩
  cases ph <;> simp only [envTick, reduceCtorEq, false_and, true_and, false_or, or_false]
  · by_cases h : 0x7FFF ≤ l.toInt
    · simp [h]
    · simp [h]
      omega
  · by_cases h : asr l.toInt 11 ≤ sustainLevel.of a1 <;> simp [h]
  · by_cases h : l = 0
    · simp [h]
    · simp [Classical.em]

end Sys2Proof.Machine
end

