-- ==== Sys2Proof/Laws/Reverb.lean ====
section
/-! SUPPORT. What the steps of a tick keep of the engine (`TickFrame`), and what the reverb's accesses do (`RvbFrame`). -/

namespace Sys2Proof.Machine

/-! ## What every part of a tick of core `c` keeps -/

/-- Cause bits that are set stay; only captured words and the reverb's work area are stored to; the settings of core `c` and the whole other core stay; nothing but interrupt signals is recorded. -/
structure TickFrame (cfg : Config) (c : CoreId) (e e' : Engine) : Prop where
  cause : ∀ c', e.irqstat.cause c' = true → e'.irqstat.cause c' = true
  bytes : ∀ b, ¬ CapturedWord cfg c (b / 2) → ¬ (e.core c).reverbMayWrite (b / 2) →
    readByte? e'.ram b = readByte? e.ram b
  settings : (e.core c).SameSettings (e'.core c)
  other : ∀ c', c' ≠ c → e'.core c' = e.core c'
  log : ∃ new, e'.log = new ++ e.log ∧ new.countP Event.isFrame = 0

theorem reverbMayWrite_of_settings {k k' : Core} (h : k.SameSettings k') (w : Nat) :
    k'.reverbMayWrite w ↔ k.reverbMayWrite w := by
  unfold Core.reverbMayWrite
  rw [h.attr, h.esa, h.eea]

theorem TickFrame.refl (cfg : Config) (c : CoreId) (e : Engine) : TickFrame cfg c e e :=
  ⟨fun _ h => h, fun _ _ _ => rfl, .refl _, fun _ _ => rfl, [], rfl, rfl⟩

theorem TickFrame.trans {cfg : Config} {c : CoreId} {a b d : Engine} (h : TickFrame cfg c a b)
    (g : TickFrame cfg c b d) : TickFrame cfg c a d := by
  refine ⟨fun c' hc => g.cause c' (h.cause c' hc), fun x h1 h2 => ?_, h.settings.trans g.settings,
    fun c' hc => (g.other c' hc).trans (h.other c' hc), ?_⟩
  · rw [g.bytes x h1 (by rwa [reverbMayWrite_of_settings h.settings]), h.bytes x h1 h2]
  · obtain ⟨n1, h1, h2⟩ := h.log
    obtain ⟨n2, g1, g2⟩ := g.log
    exact ⟨n2 ++ n1, by rw [g1, h1, List.append_assoc], by rw [List.countP_append, h2, g2]⟩

theorem tickFrame_updCore (cfg : Config) (c : CoreId) (e : Engine) (f : Core → Core)
    (h : (e.core c).SameSettings (f (e.core c))) : TickFrame cfg c e (e.updCore c f) :=
  ⟨fun _ h => by simpa using h, fun _ _ _ => by simp, by rw [engine_updCore_core_same]; exact h,
    fun c' hc => engine_updCore_core_other _ _ hc, [], by simp, rfl⟩

theorem tickFrame_irqTest (cfg : Config) (c : CoreId) (e : Engine) (a : RamAddr) (src : IrqSource) :
    TickFrame cfg c e (irqTest cfg c a src e) := by
  rcases irqTest_cases cfg c a src e with ⟨h, -⟩ | ⟨h, -⟩ <;> rw [h]
  · refine ⟨fun c' hc => ?_, fun _ _ _ => rfl, by cases c <;> exact .refl _, fun c' hc => by cases c' <;> rfl,
      [.irq c], rfl, rfl⟩
    cases c <;> cases c' <;> first | rfl | exact hc
  · exact .refl ..

theorem tickFrame_store (cfg : Config) (c : CoreId) (e : Engine) (a : RamAddr) (d : Half)
    (h : CapturedWord cfg c a.toNat ∨ (e.core c).reverbMayWrite a.toNat) : TickFrame cfg c e (e.store a d) := by
  refine ⟨fun _ h => h, fun b h1 h2 => ?_, by cases c <;> exact .refl _, fun c' hc => by cases c' <;> rfl,
    [], rfl, rfl⟩
  rw [engine_store_ram]
  apply readByte_ramWrite_other
  intro hb
  rw [hb] at h1 h2
  exact h.elim h1 h2

/-! ## Captures -/

@[simp] theorem capWrite_core (cfg : Config) (c c' : CoreId) (area : CaptureArea) (x : Half) (e : Engine) :
    (capWrite cfg c area x e).core c' = e.core c' := by
  unfold capWrite
  split <;> simp

@[simp] theorem capWrite_half (cfg : Config) (c : CoreId) (area : CaptureArea) (x : Half) (e : Engine) :
    (capWrite cfg c area x e).irqstat.half = e.irqstat.half := by
  unfold capWrite
  split <;> simp

theorem tickFrame_capWrite (cfg : Config) (c : CoreId) (area : CaptureArea) (x : Half) (e : Engine) :
    TickFrame cfg c e (capWrite cfg c area x e) := by
  unfold capWrite
  split
  · next h => exact (tickFrame_irqTest ..).trans (tickFrame_store _ _ _ _ _ (.inl ⟨area, _, h, rfl⟩))
  · exact .refl ..

/-! ## The reverb's accesses (44_reverb R328) -/

/-- The reverb's reads and writes: both cores and the half bit stay, and only the gated work area is stored to. -/
structure RvbFrame (cfg : Config) (c : CoreId) (e e' : Engine) : Prop where
  tick : TickFrame cfg c e e'
  cores : ∀ c', e'.core c' = e.core c'
  half : e'.irqstat.half = e.irqstat.half
  work : ∀ b, ¬ (e.core c).reverbMayWrite (b / 2) → readByte? e'.ram b = readByte? e.ram b

theorem RvbFrame.refl (cfg : Config) (c : CoreId) (e : Engine) : RvbFrame cfg c e e :=
  ⟨.refl .., fun _ => rfl, rfl, fun _ _ => rfl⟩

theorem RvbFrame.trans {cfg : Config} {c : CoreId} {a b d : Engine} (h : RvbFrame cfg c a b)
    (g : RvbFrame cfg c b d) : RvbFrame cfg c a d :=
  ⟨h.tick.trans g.tick, fun c' => (g.cores c').trans (h.cores c'), g.half.trans h.half,
    fun x hx => (g.work x (by rw [h.cores]; exact hx)).trans (h.work x hx)⟩

theorem rvbFrame_irqTest (cfg : Config) (c : CoreId) (e : Engine) (a : RamAddr) (src : IrqSource) :
    RvbFrame cfg c e (irqTest cfg c a src e) :=
  ⟨tickFrame_irqTest .., by simp, by simp, by simp⟩

theorem rvbFrame_read (cfg : Config) (c : CoreId) (x : Int) (e : Engine) :
    RvbFrame cfg c e (rvbRead cfg c x e).1 :=
  rvbFrame_irqTest ..

/-- An offset in a work area that is not empty lies inside it (R326). -/
theorem rvbOffset_bounds {k : Core} (h : k.esa.toNat < k.eea.toNat) (x : Int) :
    k.esa.toNat ≤ (rvbOffset k x).toNat ∧ (rvbOffset k x).toNat < k.eea.toNat := by
  have h1 := Int.emod_nonneg (k.rvb.pos.toNat + x) (show (k.eea.toNat : Int) - k.esa.toNat ≠ 0 by omega)
  have h2 := Int.emod_lt_of_pos (k.rvb.pos.toNat + x) (show 0 < (k.eea.toNat : Int) - k.esa.toNat by omega)
  have h3 := k.eea.isLt
  have h4 : ((rvbOffset k x).toNat : Int) =
      k.esa.toNat + (k.rvb.pos.toNat + x) % ((k.eea.toNat : Int) - k.esa.toNat) := by
    unfold rvbOffset
    rw [BitVec.toNat_ofInt]
    generalize (k.rvb.pos.toNat + x) % _ = y at h1 h2 ⊢
    push_cast
    rw [Int.emod_eq_of_lt (by omega) (by omega)]
    omega
  omega

theorem rvbFrame_write (cfg : Config) (c : CoreId) (x : Int) (val : Half) (e : Engine)
    (h : (e.core c).esa.toNat < (e.core c).eea.toNat) : RvbFrame cfg c e (rvbWrite cfg c x val e) := by
  unfold rvbWrite
  simp only
  split
  · next he =>
    have hm : (e.core c).reverbMayWrite (rvbOffset (e.core c) x).toNat := by
      simp only [irqTest_core] at he
      have hb := rvbOffset_bounds h x
      exact ⟨by rw [← effectEnabled_eq]; exact he, hb.1, hb.2⟩
    refine (rvbFrame_irqTest ..).trans ⟨tickFrame_store _ _ _ _ _ (.inr (by simpa using hm)),
      fun c => by cases c <;> rfl, rfl, fun b hb => ?_⟩
    rw [engine_store_ram]
    apply readByte_ramWrite_other
    intro hb'
    rw [hb'] at hb
    exact hb (by simpa using hm)
  · exact rvbFrame_irqTest ..

theorem rvbFrame_reflect (cfg : Config) (c : CoreId) (dst src : Int) (lin : Half) (e : Engine)
    (h : (e.core c).esa.toNat < (e.core c).eea.toNat) :
    RvbFrame cfg c e (rvbReflect cfg c dst src lin e) := by
  have m := (rvbFrame_read cfg c (dst - 1) e).trans (rvbFrame_read cfg c src _)
  exact m.trans (rvbFrame_write _ _ _ _ _ (by rw [m.cores]; exact h))

theorem rvbFrame_comb {cfg : Config} {c : CoreId} {e : Engine} {r : Engine × Half} (m : RvbFrame cfg c e r.1)
    (o : RvbOffset) (n : RvbCoef) (ph : Side) : RvbFrame cfg c e (rvbComb cfg c o n ph r).1 :=
  m.trans (rvbFrame_read ..)

theorem rvbFrame_allPass {cfg : Config} {c : CoreId} {e : Engine} {r : Engine × Half}
    (m : RvbFrame cfg c e r.1) (tap dist : Int) (n : RvbCoef)
    (h : (e.core c).esa.toNat < (e.core c).eea.toNat) :
    RvbFrame cfg c e (rvbAllPass cfg c tap dist n r).1 := by
  have m2 := m.trans (rvbFrame_read cfg c (tap - dist) _)
  exact m2.trans (rvbFrame_write _ _ _ _ _ (by rw [m2.cores]; exact h))

theorem rvbFrame_core (cfg : Config) (c : CoreId) (ph : Side) (x : Half) (e : Engine)
    (h : (e.core c).esa.toNat < (e.core c).eea.toNat) : RvbFrame cfg c e (rvbCore cfg c ph x e).1 := by
  unfold rvbCore
  refine rvbFrame_allPass (rvbFrame_allPass (rvbFrame_comb (rvbFrame_comb (rvbFrame_comb ?_ ..) ..) ..) _ _ _ h)
    _ _ _ h
  have m := rvbFrame_reflect cfg c ((e.core c).offInt .mSAME ph) ((e.core c).offInt .dSAME ph)
    (satMul x ((e.core c).coef (vIN ph))) e h
  exact (m.trans (rvbFrame_reflect _ _ _ _ _ _ (by rw [m.cores]; exact h))).trans (rvbFrame_read ..)

/-- The filter network, or nothing where the work area is degenerate. -/
theorem rvbFrame_value (cfg : Config) (c : CoreId) (e : Engine) : RvbFrame cfg c e (rvbValue cfg c e).1 := by
  unfold rvbValue
  split
  · next h => exact rvbFrame_core _ _ _ _ _ (by simpa [Core.reverbArea] using h)
  · exact .refl ..

/-! ## The whole reverb tick -/

theorem settings_updRvb (k : Core) (f : RvbWork → RvbWork) : k.SameSettings (k.updRvb f) :=
  ⟨rfl, rfl, rfl, rfl, rfl, rfl, rfl, rfl, rfl, rfl, rfl, rfl, rfl, rfl, rfl, rfl, rfl, rfl, rfl, rfl, rfl, rfl,
    fun _ => ⟨rfl, rfl, rfl, rfl, rfl, rfl⟩⟩

/-- Core `c` after its reverb tick: the input pushed, some value `y` pushed, cursor and phase moved on. -/
theorem reverb_core (cfg : Config) (c : CoreId) (inp : Frame) (e : Engine) :
    ∃ y, (reverb cfg c inp e).1.core c =
      (((e.core c).updRvb fun w => w.pushInput inp).updRvb fun w => w.pushOutput y).advanceReverb := by
  refine ⟨(rvbValue cfg c (e.updCore c fun k => k.updRvb fun w => w.pushInput inp)).2, ?_⟩
  unfold reverb
  simp only [engine_updCore_core_same, (rvbFrame_value ..).cores]

theorem tickFrame_reverb (cfg : Config) (c : CoreId) (inp : Frame) (e : Engine) :
    TickFrame cfg c e (reverb cfg c inp e).1 := by
  unfold reverb
  exact (((tickFrame_updCore _ _ _ _ (settings_updRvb _ _)).trans (rvbFrame_value ..).tick).trans
    (tickFrame_updCore _ _ _ _ (settings_updRvb _ _))).trans (tickFrame_updCore _ _ _ _ (settings_updRvb _ _))

@[simp] theorem reverb_half (cfg : Config) (c : CoreId) (inp : Frame) (e : Engine) :
    (reverb cfg c inp e).1.irqstat.half = e.irqstat.half := by
  unfold reverb
  simp [(rvbFrame_value ..).half]

end Sys2Proof.Machine
end

