-- ==== Sys2Proof/Laws/Tick.lean ====
section
/-! SUPPORT. What a tick, a tick pair and the loop of `RUN` do to the parts of the state that have a rule of their own. -/

namespace Sys2Proof.Machine

/-! ## Steps 1 to 9 -/

@[simp] theorem testVoices_core (cfg : Config) (c c' : CoreId) (e : Engine) :
    (testVoices cfg c e).core c' = e.core c' := by
  unfold testVoices
  generalize voiceIds = l
  induction l generalizing e with
  | nil => rfl
  | cons v l ih => exact (ih _).trans (by simp)

@[simp] theorem testVoices_half (cfg : Config) (c : CoreId) (e : Engine) :
    (testVoices cfg c e).irqstat.half = e.irqstat.half := by
  unfold testVoices
  generalize voiceIds = l
  induction l generalizing e with
  | nil => rfl
  | cons v l ih => exact (ih _).trans (by simp)

@[simp] theorem testVoices_ram (cfg : Config) (c : CoreId) (e : Engine) : (testVoices cfg c e).ram = e.ram := by
  unfold testVoices
  generalize voiceIds = l
  induction l generalizing e with
  | nil => rfl
  | cons v l ih => exact (ih _).trans (by simp)

theorem tickFrame_testVoices (cfg : Config) (c : CoreId) (e : Engine) :
    TickFrame cfg c e (testVoices cfg c e) := by
  unfold testVoices
  generalize voiceIds = l
  induction l generalizing e with
  | nil => exact .refl ..
  | cons v l ih => exact (tickFrame_irqTest ..).trans (ih _)

/-- Core `c` after steps 1 to 9. -/
theorem voiceSteps_core (cfg : Config) (c : CoreId) (sin : Frame) (e : Engine) :
    (voiceSteps cfg c sin e).core c =
      latchOuts (rawSamples cfg ((decodeVoices cfg c (testVoices cfg c
          ((captureSin cfg c sin e).updCore c processKeys))).core c))
        (advanceCounters (envelopeVoices cfg
          (forVoices (decodeStep cfg (testVoices cfg c ((captureSin cfg c sin e).updCore c processKeys)).ram)
            (processKeys (e.core c))))) := by
  unfold voiceSteps decodeVoices captureSin
  simp

theorem voiceSteps_voicePart (cfg : Config) (c : CoreId) (sin : Frame) (e : Engine) :
    (e.core c).VoicePart ((voiceSteps cfg c sin e).core c) := by
  rw [voiceSteps_core]
  exact ((((processKeys_voicePart _).trans (voicePart_forVoices (fun v k => decodeStep_voicePart ..) _)).trans
    (envelopeVoices_voicePart ..)).trans (advanceCounters_voicePart _)).trans (latchOuts_voicePart ..)

/-- Steps 1 to 9 leave no key event pending. -/
theorem voiceSteps_keys (cfg : Config) (c : CoreId) (sin : Frame) (e : Engine) :
    ((voiceSteps cfg c sin e).core c).kon = 0 ∧ ((voiceSteps cfg c sin e).core c).koff = 0 := by
  rw [voiceSteps_core, (latchOuts_keys ..).1, (latchOuts_keys ..).2, (advanceCounters_keys _).1,
    (advanceCounters_keys _).2, (envelopeVoices_keys ..).1, (envelopeVoices_keys ..).2,
    forVoices_field Core.kon (f := decodeStep cfg _) (fun _ _ => (decodeStep_keys ..).1),
    forVoices_field Core.koff (f := decodeStep cfg _) (fun _ _ => (decodeStep_keys ..).2)]
  exact ⟨rfl, rfl⟩

@[simp] theorem voiceSteps_half (cfg : Config) (c : CoreId) (sin : Frame) (e : Engine) :
    (voiceSteps cfg c sin e).irqstat.half = e.irqstat.half := by
  unfold voiceSteps decodeVoices captureSin
  simp

theorem tickFrame_voiceSteps (cfg : Config) (c : CoreId) (sin : Frame) (e : Engine) :
    TickFrame cfg c e (voiceSteps cfg c sin e) := by
  unfold voiceSteps
  have h1 := ((tickFrame_capWrite cfg c .sinL sin.left e).trans
    (tickFrame_capWrite cfg c .sinR sin.right _)).trans
    (tickFrame_updCore cfg c _ processKeys (processKeys_voicePart _).settings)
  have h2 := h1.trans (tickFrame_testVoices ..)
  have h3 := h2.trans (tickFrame_updCore cfg c _ (forVoices (decodeStep cfg (testVoices cfg c
      ((capWrite cfg c .sinR sin.right (capWrite cfg c .sinL sin.left e)).updCore c processKeys)).ram))
    (voicePart_forVoices (fun v k => decodeStep_voicePart ..) _).settings)
  have h4 := h3.trans (tickFrame_updCore cfg c _ (envelopeVoices cfg) (envelopeVoices_voicePart ..).settings)
  have h5 := h4.trans (tickFrame_updCore cfg c _ advanceCounters (advanceCounters_voicePart _).settings)
  exact h5.trans (tickFrame_updCore cfg c _ (latchOuts _) (latchOuts_voicePart ..).settings)

/-! ## Steps 10 to 13 and the captures of step 14 -/

@[simp] theorem readMemins_core (cfg : Config) (c c' : CoreId) (e : Engine) :
    (readMemins cfg c e).1.core c' = e.core c' := by
  simp [readMemins, readMemin]

@[simp] theorem readMemins_half (cfg : Config) (c : CoreId) (e : Engine) :
    (readMemins cfg c e).1.irqstat.half = e.irqstat.half := by
  simp [readMemins, readMemin]

@[simp] theorem captureOuts_core (cfg : Config) (c c' : CoreId) (k : Core) (e : Engine) :
    (captureOuts cfg c k e).core c' = e.core c' := by
  simp [captureOuts]

@[simp] theorem captureOuts_half (cfg : Config) (c : CoreId) (k : Core) (e : Engine) :
    (captureOuts cfg c k e).irqstat.half = e.irqstat.half := by
  simp [captureOuts]

theorem tickFrame_captureOuts (cfg : Config) (c : CoreId) (k : Core) (e : Engine) :
    TickFrame cfg c e (captureOuts cfg c k e) :=
  (((((tickFrame_capWrite ..).trans (tickFrame_capWrite ..)).trans (tickFrame_capWrite ..)).trans
    (tickFrame_capWrite ..)).trans (tickFrame_capWrite ..)).trans (tickFrame_capWrite ..)

/-- The engine after steps 10 to 13 and the captures of step 14. -/
def beforePosition (cfg : Config) (c : CoreId) (sin : Frame) (e : Engine) : Engine :=
  captureOuts cfg c (e.core c)
    (reverb cfg c (wetInput (e.core c) sin (readMemins cfg c e).2) (readMemins cfg c e).1).1

theorem mixSteps_engine (cfg : Config) (c : CoreId) (sin : Frame) (e : Engine) :
    (mixSteps cfg c sin e).1 = (advancePosition c (beforePosition cfg c sin e)).updCore c (Core.endTick cfg) := rfl

/-- Of core `c`, only the reverb's working state changes up to the captures. -/
theorem beforePosition_core (cfg : Config) (c : CoreId) (sin : Frame) (e : Engine) :
    ∃ w, (beforePosition cfg c sin e).core c = { e.core c with rvb := w } := by
  unfold beforePosition
  rw [captureOuts_core]
  obtain ⟨y, h⟩ := reverb_core cfg c (wetInput (e.core c) sin (readMemins cfg c e).2) (readMemins cfg c e).1
  rw [h, readMemins_core]
  exact ⟨_, rfl⟩

@[simp] theorem beforePosition_half (cfg : Config) (c : CoreId) (sin : Frame) (e : Engine) :
    (beforePosition cfg c sin e).irqstat.half = e.irqstat.half := by
  simp [beforePosition]

theorem tickFrame_beforePosition (cfg : Config) (c : CoreId) (sin : Frame) (e : Engine) :
    TickFrame cfg c e (beforePosition cfg c sin e) :=
  (((tickFrame_irqTest ..).trans (tickFrame_irqTest ..)).trans (tickFrame_reverb ..)).trans
    (tickFrame_captureOuts ..)

/-! ## The position (45_mixer R380) -/

/-- The next position, whether it is a multiple of 0x100, and its bit 8. -/
theorem outPos_succ (q : BitVec 9) :
    (q + 1).toNat = (q.toNat + 1) % 0x200 ∧
    ((q + 1).extractLsb' 0 8 = 0#8 ↔ (q.toNat + 1) % 0x200 % 0x100 = 0) ∧
    (q + 1).getLsbD 8 = decide (0x100 ≤ (q.toNat + 1) % 0x200) := by
  revert q
  decide

/-- The four outcomes of the Auto-DMA trigger (46_dma R413). -/
theorem admaTrigger_cases (c : CoreId) (k : Core) :
    (k.admaActive c = true ∧ k.adma.left ≠ 0 ∧
      admaTrigger c k = { k with adma := { k.adma with pending := true } }) ∨
    (k.admaActive c = true ∧ k.adma.left = 0 ∧ (0 < k.dma.size ∧ k.dma.dir = .write) ∧
      admaTrigger c k = { k with adma := { k.adma with left := 16, half := !k.outPos.getLsbD 8 } }) ∨
    (k.admaActive c = true ∧ k.adma.left = 0 ∧ ¬(0 < k.dma.size ∧ k.dma.dir = .write) ∧
      admaTrigger c k = k) ∨
    (k.admaActive c = false ∧ admaTrigger c k = k) := by
  unfold admaTrigger
  by_cases ha : k.admaActive c = true
  · rw [if_pos ha]
    by_cases hl : k.adma.left ≠ 0
    · rw [if_pos hl]
      exact .inl ⟨ha, hl, rfl⟩
    · rw [if_neg hl]
      by_cases hd : 0 < k.dma.size ∧ k.dma.dir = .write
      · rw [if_pos hd]
        exact .inr (.inl ⟨ha, not_not.1 hl, hd, rfl⟩)
      · rw [if_neg hd]
        exact .inr (.inr (.inl ⟨ha, not_not.1 hl, hd, rfl⟩))
  · rw [if_neg ha]
    exact .inr (.inr (.inr ⟨by simpa using ha, rfl⟩))

/-- The trigger changes the Auto-DMA counters alone. -/
theorem admaTrigger_core (c : CoreId) (k : Core) :
    admaTrigger c k = { k with adma := (admaTrigger c k).adma } := by
  rcases admaTrigger_cases c k with ⟨-, -, h⟩ | ⟨-, -, -, h⟩ | ⟨-, -, -, h⟩ | ⟨-, h⟩ <;> rw [h]

/-- The two outcomes of the half flip. -/
theorem flipHalf_cases (c : CoreId) (e : Engine) :
    ((e.core c).outPos.extractLsb' 0 8 = 0#8 ∧
      flipHalf c e = (e.setHalf ((e.core c).outPos.getLsbD 8)).updCore c (admaTrigger c)) ∨
    ((e.core c).outPos.extractLsb' 0 8 ≠ 0#8 ∧ flipHalf c e = e) := by
  unfold flipHalf
  by_cases h : (e.core c).outPos.extractLsb' 0 8 = 0#8
  · simp [h]
  · simp [h]

@[simp] theorem engine_setHalf_cause (e : Engine) (b : Bool) (c : CoreId) :
    (e.setHalf b).irqstat.cause c = e.irqstat.cause c := by
  cases c <;> rfl

/-- Moving the position on changes of core `c` only the position and the Auto-DMA counters; RAM, record and cause bits stay. -/
theorem advancePosition_spec (c : CoreId) (e : Engine) :
    (∃ m, (advancePosition c e).core c = { e.core c with outPos := (e.core c).outPos + 1, adma := m }) ∧
    (∀ c', c' ≠ c → (advancePosition c e).core c' = e.core c') ∧ (advancePosition c e).ram = e.ram ∧
    (advancePosition c e).log = e.log ∧
    ∀ c', (advancePosition c e).irqstat.cause c' = e.irqstat.cause c' := by
  unfold advancePosition
  rcases flipHalf_cases c (e.updCore c Core.advanceOutPos) with ⟨-, h⟩ | ⟨-, h⟩ <;> rw [h]
  · refine ⟨⟨(admaTrigger c (e.core c).advanceOutPos).adma, ?_⟩, fun c' hc => ?_, by simp, by simp,
      fun c' => by simp⟩
    · rw [engine_updCore_core_same, engine_setHalf_core, engine_updCore_core_same, admaTrigger_core]
      rfl
    · rw [engine_updCore_core_other _ _ hc, engine_setHalf_core, engine_updCore_core_other _ _ hc]
  · refine ⟨⟨(e.core c).adma, ?_⟩, fun c' hc => ?_, by simp, by simp, fun c' => by simp⟩
    · rw [engine_updCore_core_same]
      rfl
    · rw [engine_updCore_core_other _ _ hc]

theorem tickFrame_advancePosition (cfg : Config) (c : CoreId) (e : Engine) :
    TickFrame cfg c e (advancePosition c e) := by
  obtain ⟨⟨m, h1⟩, h2, h3, h4, h5⟩ := advancePosition_spec c e
  refine ⟨fun c' hc => by rw [h5]; exact hc, fun b _ _ => by rw [h3], ?_, h2, [], h4, rfl⟩
  rw [h1]
  exact ⟨rfl, rfl, rfl, rfl, rfl, rfl, rfl, rfl, rfl, rfl, rfl, rfl, rfl, rfl, rfl, rfl, rfl, rfl, rfl, rfl, rfl,
    rfl, fun _ => ⟨rfl, rfl, rfl, rfl, rfl, rfl⟩⟩

/-! ## The tick -/

theorem settings_endTick (cfg : Config) (k : Core) : k.SameSettings (k.endTick cfg) :=
  ⟨rfl, rfl, rfl, rfl, rfl, rfl, rfl, rfl, rfl, rfl, rfl, rfl, volTick_reg _ _, volTick_reg _ _, rfl, rfl, rfl,
    rfl, rfl, rfl, rfl, rfl, fun _ => ⟨rfl, rfl, rfl, rfl, rfl, rfl⟩⟩

theorem tick_engine (cfg : Config) (c : CoreId) (sin : Frame) (e : Engine) :
    (tick cfg c sin e).1 =
      (advancePosition c (beforePosition cfg c sin (voiceSteps cfg c sin e))).updCore c (Core.endTick cfg) := rfl

theorem tickFrame_tick (cfg : Config) (c : CoreId) (sin : Frame) (e : Engine) :
    TickFrame cfg c e (tick cfg c sin e).1 := by
  rw [tick_engine]
  exact (((tickFrame_voiceSteps ..).trans (tickFrame_beforePosition ..)).trans
    (tickFrame_advancePosition ..)).trans (tickFrame_updCore _ _ _ _ (settings_endTick _ _))

/-- A tick leaves no key event pending. -/
theorem tick_keys (cfg : Config) (c : CoreId) (sin : Frame) (e : Engine) :
    ((tick cfg c sin e).1.core c).kon = 0 ∧ ((tick cfg c sin e).1.core c).koff = 0 := by
  rw [tick_engine, engine_updCore_core_same]
  obtain ⟨m, h1⟩ := (advancePosition_spec c (beforePosition cfg c sin (voiceSteps cfg c sin e))).1
  obtain ⟨w, h2⟩ := beforePosition_core cfg c sin (voiceSteps cfg c sin e)
  rw [h1, h2]
  exact voiceSteps_keys cfg c sin e

/-! ## RUN -/

/-- What a tick pair keeps of the engine; it records exactly one frame. -/
theorem tickBoth_spec (cfg : Config) (sin : Frame) (e : Engine) :
    (∀ b, (∀ c, ¬ CapturedWord cfg c (b / 2) ∧ ¬ (e.core c).reverbMayWrite (b / 2)) →
      readByte? (tickBoth cfg sin e).ram b = readByte? e.ram b) ∧
    (∀ c, (e.core c).SameSettings ((tickBoth cfg sin e).core c)) ∧
    (∀ c, e.irqstat.cause c = true → (tickBoth cfg sin e).irqstat.cause c = true) ∧
    (∃ new, (tickBoth cfg sin e).log = new ++ e.log ∧ new.countP Event.isFrame = 1) ∧
    ∀ c, ((tickBoth cfg sin e).core c).kon = 0 ∧ ((tickBoth cfg sin e).core c).koff = 0 := by
  have t0 := tickFrame_tick cfg .core0 sin e
  have k0 := tick_keys cfg .core0 sin e
  have t1 := tickFrame_tick cfg .core1 (tick cfg .core0 sin e).2 (tick cfg .core0 sin e).1
  have k1 := tick_keys cfg .core1 (tick cfg .core0 sin e).2 (tick cfg .core0 sin e).1
  unfold tickBoth
  simp only
  generalize tick cfg .core1 (tick cfg .core0 sin e).2 (tick cfg .core0 sin e).1 = r1 at t1 k1
  generalize tick cfg .core0 sin e = r0 at t0 k0 t1
  have o1 := t1.other .core0 (by decide)
  have o0 := t0.other .core1 (by decide)
  refine ⟨fun b hb => ?_, fun c => ?_, fun c hc => t1.cause c (t0.cause c hc), ?_, fun c => ?_⟩
  · rw [engine_emit_ram, t1.bytes b (hb .core1).1 (by rw [o0]; exact (hb .core1).2),
      t0.bytes b (hb .core0).1 (hb .core0).2]
  · rw [engine_emit_core]
    cases c
    · rw [o1]
      exact t0.settings
    · have := t1.settings
      rwa [o0] at this
  · obtain ⟨n0, h0, g0⟩ := t0.log
    obtain ⟨n1, h1, g1⟩ := t1.log
    refine ⟨.frame r1.2 :: (n1 ++ n0), ?_, ?_⟩
    · rw [engine_emit_log, h1, h0]
      simp
    · rw [List.countP_cons, List.countP_append, g0, g1]
      rfl
  · rw [engine_emit_core]
    cases c
    · rw [o1]
      exact k0
    · exact k1

/-- What the loop of `RUN` keeps of the state. -/
structure RunFrame (s t : State) : Prop where
  cfg : t.cfg = s.cfg
  spdif : t.spdif = s.spdif
  fault : t.fault = s.fault
  pending : t.pending = s.pending
  supply : t.supply = s.supply
  opCount : t.opCount = s.opCount
  bytes : ∀ b, (∀ c, ¬ CapturedWord s.cfg c (b / 2) ∧ ¬ (s.core c).reverbMayWrite (b / 2)) →
    readByte? t.engine.ram b = readByte? s.engine.ram b
  settings : ∀ c, (s.core c).SameSettings (t.core c)
  cause : ∀ c, s.engine.irqstat.cause c = true → t.engine.irqstat.cause c = true

theorem RunFrame.refl (s : State) : RunFrame s s :=
  ⟨rfl, rfl, rfl, rfl, rfl, rfl, fun _ _ => rfl, fun _ => .refl _, fun _ h => h⟩

theorem RunFrame.trans {a b d : State} (h : RunFrame a b) (g : RunFrame b d) : RunFrame a d := by
  refine ⟨g.1.trans h.1, g.2.trans h.2, g.3.trans h.3, g.4.trans h.4, g.5.trans h.5, g.6.trans h.6,
    fun x hx => ?_, fun c => (h.settings c).trans (g.settings c), fun c hc => g.cause c (h.cause c hc)⟩
  rw [g.bytes x fun c => by
    rw [h.cfg, reverbMayWrite_of_settings (h.settings c)]
    exact hx c]
  exact h.bytes x hx

/-- What `n` rounds of the loop of `RUN` do: they record `n` frames, drop the key events if there is a round, and take `n` quanta off the accumulator. -/
theorem runTicks_spec (n : Nat) (s : State) :
    RunFrame s (runTicks n s) ∧
    (∃ new, (runTicks n s).engine.log = new ++ s.engine.log ∧ new.countP Event.isFrame = n) ∧
    (∀ c, ((runTicks n s).core c).kon = (if n = 0 then (s.core c).kon else 0) ∧
      ((runTicks n s).core c).koff = (if n = 0 then (s.core c).koff else 0)) ∧
    (runTicks n s).runAcc = s.runAcc - n * s.cfg.tickCycles.val := by
  induction n generalizing s with
  | zero => exact ⟨.refl s, ⟨[], rfl, rfl⟩, fun c => ⟨rfl, rfl⟩, by simp [runTicks]⟩
  | succ n ih =>
    rw [runTicks]
    have h1 := tickBoth_spec s.cfg (s.extIn.headD s.cfg.extIn) s.engine
    have r1 : RunFrame s (tickPair { s with runAcc := s.runAcc - s.cfg.tickCycles.val }) :=
      ⟨rfl, rfl, rfl, rfl, rfl, rfl, h1.1, h1.2.1, h1.2.2.1⟩
    have h2 := ih (tickPair { s with runAcc := s.runAcc - s.cfg.tickCycles.val })
    refine ⟨r1.trans h2.1, ?_, fun c => ?_, ?_⟩
    · obtain ⟨n1, a1, b1⟩ := h1.2.2.2.1
      obtain ⟨n2, a2, b2⟩ := h2.2.1
      refine ⟨n2 ++ n1, ?_, by rw [List.countP_append, b1, b2]⟩
      rw [a2, List.append_assoc, ← a1]
      rfl
    · have h3 := h2.2.2.1 c
      have h4 := h1.2.2.2.2 c
      have h5 : (tickPair { s with runAcc := s.runAcc - s.cfg.tickCycles.val }).core c =
          (tickBoth s.cfg (s.extIn.headD s.cfg.extIn) s.engine).core c := rfl
      rw [h5, h4.1, h4.2] at h3
      simpa using h3
    · rw [h2.2.2.2]
      show s.runAcc - s.cfg.tickCycles.val - n * s.cfg.tickCycles.val = _
      rw [Nat.add_mul, Nat.sub_sub]
      congr 1
      omega

theorem runTicks_add (m n : Nat) (s : State) : runTicks (m + n) s = runTicks n (runTicks m s) := by
  induction m generalizing s with
  | zero => simp [runTicks]
  | succ m ih => rw [Nat.succ_add, runTicks, ih, runTicks]

/-- Cycles that the rounds do not use stay in the accumulator and change nothing else. -/
theorem runTicks_spare (n : Nat) (s : State) (d : Nat) (h : n * s.cfg.tickCycles.val ≤ s.runAcc) :
    runTicks n { s with runAcc := s.runAcc + d } =
      { runTicks n s with runAcc := (runTicks n s).runAcc + d } := by
  induction n generalizing s with
  | zero => rfl
  | succ n ih =>
    rw [Nat.add_mul] at h
    have hp : tickPair { ({ s with runAcc := s.runAcc + d } : State) with
          runAcc := s.runAcc + d - s.cfg.tickCycles.val } =
        { tickPair { s with runAcc := s.runAcc - s.cfg.tickCycles.val } with
          runAcc := (tickPair { s with runAcc := s.runAcc - s.cfg.tickCycles.val }).runAcc + d } := by
      unfold tickPair
      simp only [State.mk.injEq, true_and, and_true]
      omega
    show runTicks n (tickPair { ({ s with runAcc := s.runAcc + d } : State) with
      runAcc := s.runAcc + d - s.cfg.tickCycles.val }) = _
    rw [hp, ih]
    · rfl
    · show n * s.cfg.tickCycles.val ≤ s.runAcc - s.cfg.tickCycles.val
      omega

theorem atLeast_one_pos (x : AtLeast 1) : 0 < x.val := by
  unfold AtLeast.val
  omega

end Sys2Proof.Machine
end

