-- ==== Sys2Proof/Laws/Mixer.lean ====
section
/-! SUPPORT. The closed forms of the mixer's, the interpolator's and the reverb's arithmetic, and what the captures and the filter network leave in RAM. -/

namespace Sys2Proof.Machine

/-! ## Arithmetic (00_scope R11) -/

theorem clamp16_eq (z : Int) : clamp16 z = saturate z := rfl

theorem satAdd_eq (a b : Half) : satAdd a b = plus a b := rfl

theorem satSub_eq (a b : Half) : satSub a b = minus a b := rfl

theorem satMul_eq (a b : Half) : satMul a b = times a b := rfl

theorem scale_eq (x vol : Half) : scale x vol = times x vol := rfl

/-- A voice bus (45_mixer R372). -/
theorem voiceBus_eq (k : Core) (mask : VoiceMask) (ch : Side) : voiceBus k mask ch = busOf k mask ch := rfl

/-- A bus depends on the voices alone. -/
theorem busOf_congr {k k' : Core} (h : ∀ v, k'.voice v = k.voice v) (mask : VoiceMask) (ch : Side) :
    busOf k' mask ch = busOf k mask ch := by
  unfold busOf
  simp only [h]

/-! ## Interpolation (43_interp_pitch_noise R290, R291) -/

/-- The condition of R291, which `gaussNormalised` decides. -/
theorem gaussNormalised_sums {rows : GaussRows} (h : gaussNormalised rows = true) :
    ∃ total : Int, ∀ row ∈ rows.toList, (gaussRowSum row - total).natAbs ≤ 1 := by
  simp only [gaussNormalised, List.any_eq_true, List.all_eq_true, decide_eq_true_eq] at h
  obtain ⟨d, -, h⟩ := h
  exact ⟨_, h⟩

/-- The row the counter selects. -/
theorem gaussRow_eq (rows : GaussRows) (counter : BitVec 12) :
    rows[gaussIndex counter] =
      rows.toList.getD (counter.extractLsb' 4 8).toNat (Vector.replicate 4 0) := by
  have hc := counter.isLt
  have h : (counter.extractLsb' 4 8).toNat = counter.toNat / 16 := by
    rw [BitVec.extractLsb'_toNat, Nat.shiftRight_eq_div_pow]
    omega
  rw [h, List.getD_eq_getElem _ _ (by simpa using show counter.toNat / 16 < 256 by omega)]
  have hi : (gaussIndex counter).val = counter.toNat / 16 := Nat.mod_eq_of_lt (by omega)
  simp only [Vector.getElem_toList, Fin.getElem_fin, hi]

/-! ## FIR (44_reverb R322) -/

/-- The sum of the products of two lists of one length, by position. -/
theorem sum_zipWith_eq (f : Half → Half → Int) (l m : List Half) (n : Nat) (hl : l.length = n) (hm : m.length = n) :
    (List.zipWith f l m).sum = ((List.range n).map fun i => f (l.getD i 0) (m.getD i 0)).sum := by
  congr 1
  apply List.ext_getElem
  · simp [hl, hm]
  · intro i h1 h2
    simp only [List.length_map, List.length_range] at h2
    simp [hl, hm, h2]

/-- The taps, by the symmetry (00_scope R7, log 14). -/
theorem firTaps_getD (cfg : Config) {i : Nat} (h : i < 39) :
    cfg.firTaps.getD i 0 = cfg.firHalf.toList.getD (min i (38 - i)) 0 := by
  unfold Config.firTaps
  have h20 : cfg.firHalf.toList.length = 20 := by simp
  rw [List.getD_eq_getElem _ _ (by simp; omega), List.getD_eq_getElem _ _ (by simp; omega), List.getElem_append]
  split
  · next hi =>
    congr 1
    omega
  · next hi =>
    simp only [List.getElem_reverse, List.getElem_take, List.length_take, h20]
    congr 1
    omega

/-- The filter of a history, shifted and clamped. -/
theorem fir_eq (cfg : Config) (h : Vector Half 39) (shift : Nat) :
    clamp16 (asr (fir cfg h) shift) = firOf cfg shift h.toList := by
  unfold firOf fir asr
  rw [clamp16_eq, sum_zipWith_eq _ _ _ 39 (by simp [Config.firTaps]) (by simp)]
  congr 3
  apply List.map_congr_left
  intro i hi
  rw [firTaps_getD cfg (List.mem_range.1 hi)]

/-! ## Captures (20_memory R76) -/

/-- The words of two capture areas of one core at one position are different words. -/
theorem captureAddr_ne (c : CoreId) {x y : CaptureArea} (p : BitVec 9) (h : x ≠ y) :
    captureAddr c x p ≠ captureAddr c y p := by
  intro he
  have hp := p.isLt
  have hn := congrArg BitVec.toNat he
  unfold captureAddr at hn
  have hc : c.num ≤ 1 := by cases c <;> decide
  have hx : captureOffset x ≤ 0xE00 := by cases x <;> decide
  have hy : captureOffset y ≤ 0xE00 := by cases y <;> decide
  simp only [BitVec.toNat_ofNat] at hn
  rw [Nat.mod_eq_of_lt (by omega), Nat.mod_eq_of_lt (by omega)] at hn
  have : captureOffset x = captureOffset y := by omega
  revert this h
  cases x <;> cases y <;> decide

/-- The word of an area that is written holds what was written. -/
theorem capWrite_ram_same {cfg : Config} (c : CoreId) {area : CaptureArea} (x : Half) (e : Engine)
    (h : cfg.captureSet.has area = true) :
    ramRead (capWrite cfg c area x e).ram (captureAddr c area (e.core c).outPos) = x := by
  simp [capWrite, h]

/-- Every word but the area's own stays. -/
theorem capWrite_ram_other (cfg : Config) (c : CoreId) (area : CaptureArea) (x : Half) (e : Engine) {a : RamAddr}
    (h : a ≠ captureAddr c area (e.core c).outPos) :
    ramRead (capWrite cfg c area x e).ram a = ramRead e.ram a := by
  unfold capWrite
  split
  · simp [ramRead_ramWrite_other _ _ h]
  · rfl

/-- The captures of step 14 leave every word but their own. -/
theorem captureOuts_ram_other (cfg : Config) (c : CoreId) (k : Core) (e : Engine) {a : RamAddr}
    (h : ∀ area ∈ [CaptureArea.voice1, .voice3, .dryL, .dryR, .wetL, .wetR],
      a ≠ captureAddr c area (e.core c).outPos) :
    ramRead (captureOuts cfg c k e).ram a = ramRead e.ram a := by
  unfold captureOuts
  simp only
  rw [capWrite_ram_other _ _ _ _ _ (by simpa using h .wetR (by simp)),
    capWrite_ram_other _ _ _ _ _ (by simpa using h .wetL (by simp)),
    capWrite_ram_other _ _ _ _ _ (by simpa using h .dryR (by simp)),
    capWrite_ram_other _ _ _ _ _ (by simpa using h .dryL (by simp)),
    capWrite_ram_other _ _ _ _ _ (by simpa using h .voice3 (by simp)),
    capWrite_ram_other _ _ _ _ _ (h .voice1 (by simp))]

/-- A word whose bytes stay reads the same. -/
theorem ramRead_congr {m m' : Memory} (a : RamAddr)
    (h : ∀ b, b / 2 = a.toNat → readByte? m' b = readByte? m b) : ramRead m' a = ramRead m a := by
  unfold ramRead byteAt
  rw [h _ (by unfold lowByteAddr; omega), h _ (by unfold lowByteAddr; omega)]

/-- No capture area holds a word from 0x2000 on. -/
theorem not_capturedWord {cfg : Config} {c : CoreId} {w : Nat} (h : 0x2000 ≤ w) : ¬ CapturedWord cfg c w := by
  rintro ⟨area, p, -, rfl⟩
  have hp := p.isLt
  have hc : c.num ≤ 1 := by cases c <;> decide
  have ho : captureOffset area ≤ 0xE00 := by cases area <;> decide
  unfold captureAddr at h
  rw [BitVec.toNat_ofNat, Nat.mod_eq_of_lt (by omega)] at h
  omega

/-- The captures of step 14: each area that is written holds its value, and the two areas of step 1 stay. -/
theorem captureOuts_ram (cfg : Config) (c : CoreId) (k : Core) (e : Engine) :
    let m := (captureOuts cfg c k e).ram
    let addr (area : CaptureArea) := captureAddr c area (e.core c).outPos
    (cfg.captureSet.voice1 = true → ramRead m (addr .voice1) = (k.voice 1).out) ∧
    (cfg.captureSet.voice3 = true → ramRead m (addr .voice3) = (k.voice 3).out) ∧
    (cfg.captureSet.dryL = true → ramRead m (addr .dryL) = (dryBus k).left) ∧
    (cfg.captureSet.dryR = true → ramRead m (addr .dryR) = (dryBus k).right) ∧
    (cfg.captureSet.wetL = true → ramRead m (addr .wetL) = (wetBus k).left) ∧
    (cfg.captureSet.wetR = true → ramRead m (addr .wetR) = (wetBus k).right) ∧
    ∀ area, area = .sinL ∨ area = .sinR → ramRead m (addr area) = ramRead e.ram (addr area) := by
  intro m addr
  have other : ∀ (area area' : CaptureArea) (x : Half) (e' : Engine), e'.core c = e.core c → area ≠ area' →
      ramRead (capWrite cfg c area' x e').ram (addr area) = ramRead e'.ram (addr area) := by
    intro area area' x e' h hne
    apply capWrite_ram_other
    rw [h]
    exact captureAddr_ne c _ hne
  have same : ∀ (area : CaptureArea) (x : Half) (e' : Engine), e'.core c = e.core c →
      cfg.captureSet.has area = true → ramRead (capWrite cfg c area x e').ram (addr area) = x := by
    intro area x e' h hs
    have := capWrite_ram_same c x e' hs
    rwa [h] at this
  have hm : m = (capWrite cfg c .wetR (wetBus k).right (capWrite cfg c .wetL (wetBus k).left
      (capWrite cfg c .dryR (dryBus k).right (capWrite cfg c .dryL (dryBus k).left
        (capWrite cfg c .voice3 (k.voice 3).out (capWrite cfg c .voice1 (k.voice 1).out e)))))).ram := rfl
  rw [hm]
  refine ⟨fun h => ?_, fun h => ?_, fun h => ?_, fun h => ?_, fun h => ?_, fun h => ?_, fun area ha => ?_⟩
  · rw [other _ _ _ _ (by simp) (by decide), other _ _ _ _ (by simp) (by decide),
      other _ _ _ _ (by simp) (by decide), other _ _ _ _ (by simp) (by decide),
      other _ _ _ _ (by simp) (by decide), same .voice1 _ _ (by simp) h]
  · rw [other _ _ _ _ (by simp) (by decide), other _ _ _ _ (by simp) (by decide),
      other _ _ _ _ (by simp) (by decide), other _ _ _ _ (by simp) (by decide),
      same .voice3 _ _ (by simp) h]
  · rw [other _ _ _ _ (by simp) (by decide), other _ _ _ _ (by simp) (by decide),
      other _ _ _ _ (by simp) (by decide), same .dryL _ _ (by simp) h]
  · rw [other _ _ _ _ (by simp) (by decide), other _ _ _ _ (by simp) (by decide),
      same .dryR _ _ (by simp) h]
  · rw [other _ _ _ _ (by simp) (by decide), same .wetL _ _ (by simp) h]
  · rw [same .wetR _ _ (by simp) h]
  · rcases ha with rfl | rfl <;>
      rw [other _ _ _ _ (by simp) (by decide), other _ _ _ _ (by simp) (by decide),
        other _ _ _ _ (by simp) (by decide), other _ _ _ _ (by simp) (by decide),
        other _ _ _ _ (by simp) (by decide), other _ _ _ _ (by simp) (by decide)]

/-! ## Signals of the captures and of memory-in (45_mixer R365, R373, R379) -/

/-- Whether a capture area is written and its word lies at `IRQA`. -/
def captureHit (cfg : Config) (c : CoreId) (k : Core) (area : CaptureArea) : Bool :=
  cfg.captureSet.has area && irqHit cfg k .capture (captureAddr c area k.outPos)

theorem signals_capWrite (cfg : Config) (c : CoreId) (area : CaptureArea) (x : Half) (e : Engine) :
    Signals c (if captureHit cfg c (e.core c) area then 1 else 0) e (capWrite cfg c area x e) := by
  unfold capWrite captureHit
  cases cfg.captureSet.has area
  · exact .refl ..
  · exact (signals_irqTest ..).trans (signals_store ..)

/-- Captures made one after the other send one signal for each area that hits. -/
theorem signals_capWrites (cfg : Config) (c : CoreId) (l : List (CaptureArea × Half)) (e : Engine) :
    Signals c ((l.map Prod.fst).countP (captureHit cfg c (e.core c))) e
      (l.foldl (fun e p => capWrite cfg c p.1 p.2 e) e) := by
  induction l generalizing e with
  | nil => exact .refl ..
  | cons p l ih =>
    have h := (signals_capWrite cfg c p.1 p.2 e).trans (ih _)
    rw [capWrite_core] at h
    rw [List.map_cons, List.countP_cons, Nat.add_comm]
    exact h

theorem signals_captureSin (cfg : Config) (c : CoreId) (sin : Frame) (e : Engine) :
    Signals c ([CaptureArea.sinL, .sinR].countP (captureHit cfg c (e.core c))) e (captureSin cfg c sin e) :=
  signals_capWrites cfg c [(.sinL, sin.left), (.sinR, sin.right)] e

theorem signals_captureOuts (cfg : Config) (c : CoreId) (k : Core) (e : Engine) :
    Signals c
      ([CaptureArea.voice1, .voice3, .dryL, .dryR, .wetL, .wetR].countP (captureHit cfg c (e.core c))) e
      (captureOuts cfg c k e) :=
  signals_capWrites cfg c [(.voice1, (k.voice 1).out), (.voice3, (k.voice 3).out), (.dryL, (dryBus k).left),
    (.dryR, (dryBus k).right), (.wetL, (wetBus k).left), (.wetR, (wetBus k).right)] e

theorem signals_readMemins (cfg : Config) (c : CoreId) (e : Engine) :
    Signals c ([Side.left, .right].countP fun ch =>
        irqHit cfg (e.core c) .memin (inputAddr c ch (e.core c).outPos)) e (readMemins cfg c e).1 :=
  signals_irqTests cfg c .memin (fun k ch => inputAddr c ch k.outPos) [.left, .right] e

/-- What is counted where the unit is a source and the interrupt is on. -/
theorem countP_captureHit (cfg : Config) (c : CoreId) (k : Core) (l : List CaptureArea) :
    l.countP (captureHit cfg c k) =
      if cfg.irqSources.capture = true ∧ k.attr.getLsbD 6 = true
      then l.countP fun area => cfg.captureSet.has area && captureAddr c area k.outPos == k.irqa else 0 := by
  unfold captureHit irqHit
  rw [irqEnabled_eq]
  cases h : cfg.irqSources.capture <;> cases k.attr.getLsbD 6 <;> simp [IrqSources.has, h]

/-! ## The RAM and the core of a tick -/

/-- Of steps 1 to 9 only the captures of step 1 store. -/
theorem voiceSteps_ram (cfg : Config) (c : CoreId) (sin : Frame) (e : Engine) :
    (voiceSteps cfg c sin e).ram = (captureSin cfg c sin e).ram := by
  unfold voiceSteps decodeVoices
  simp

/-- The reverb stores only inside its own work area. -/
theorem reverb_bytes (cfg : Config) (c : CoreId) (inp : Frame) (e : Engine) {b : Nat}
    (h : ¬ (e.core c).reverbMayWrite (b / 2)) :
    readByte? (reverb cfg c inp e).1.ram b = readByte? e.ram b := by
  unfold reverb
  simp only [engine_updCore_ram]
  rw [(rvbFrame_value ..).work b (by simpa [Core.reverbMayWrite, Core.updRvb] using h)]
  simp

/-- Core `c` after its tick: what steps 1 to 9 leave, with the reverb's working state, the position, the Auto-DMA counters, the noise generator and the master volume moved on. -/
theorem tick_core (cfg : Config) (c : CoreId) (sin : Frame) (e : Engine) :
    ∃ w m, (tick cfg c sin e).1.core c =
      Core.endTick cfg { (voiceSteps cfg c sin e).core c with
        rvb := w, outPos := ((voiceSteps cfg c sin e).core c).outPos + 1, adma := m } := by
  obtain ⟨⟨m, h1⟩, -⟩ := advancePosition_spec c (beforePosition cfg c sin (voiceSteps cfg c sin e))
  obtain ⟨w, h2⟩ := beforePosition_core cfg c sin (voiceSteps cfg c sin e)
  refine ⟨w, m, ?_⟩
  rw [tick_engine, engine_updCore_core_same, h1, h2]

end Sys2Proof.Machine
end

