-- ==== Sys2Proof/Laws/Network.lean ====
section
/-! SUPPORT. What each stage of the reverb's filter network leaves in RAM, answers and signals (44_reverb R328 to R335). `k` is the core, which no stage changes. -/

namespace Sys2Proof.Machine

/-- The signals of one access of the network: one if the address lies at `IRQA` and can be compared (R328). -/
def rvbHits (cfg : Config) (k : Core) (x : Int) : Nat := if irqHit cfg k .reverb (rvbOffset k x) then 1 else 0

/-- The word of the RAM that an offset names (R326). -/
def rvbWord (k : Core) (m : Memory) (x : Int) : Half := ramRead m (rvbOffset k x)

/-- The RAM after a store of the network, which `EffectEnable` gates (R331). -/
def rvbStored (k : Core) (m : Memory) (x : Int) (d : Half) : Memory :=
  if k.attr.getLsbD 7 = true then ramWrite m (rvbOffset k x) d else m

theorem rvbRead_spec (cfg : Config) (c : CoreId) (x : Int) (e : Engine) {k : Core} (hk : e.core c = k) :
    (rvbRead cfg c x e).1.ram = e.ram ∧ (rvbRead cfg c x e).2 = rvbWord k e.ram x ∧
      Signals c (rvbHits cfg k x) e (rvbRead cfg c x e).1 := by
  subst hk
  exact ⟨by simp [rvbRead], rfl, signals_irqTest ..⟩

theorem rvbWrite_spec (cfg : Config) (c : CoreId) (x : Int) (d : Half) (e : Engine) {k : Core}
    (hk : e.core c = k) :
    (rvbWrite cfg c x d e).ram = rvbStored k e.ram x d ∧
      Signals c (rvbHits cfg k x) e (rvbWrite cfg c x d e) := by
  subst hk
  unfold rvbWrite rvbStored
  simp only [irqTest_core, effectEnabled_eq]
  split
  · exact ⟨by simp, (signals_irqTest ..).trans (signals_store ..)⟩
  · exact ⟨by simp, signals_irqTest ..⟩

/-- The value a reflection stage stores (R332, R333). -/
def rvbReflected (k : Core) (m : Memory) (dst src : Int) (lin : Half) : Half :=
  plus (times (minus (plus lin (times (rvbWord k m src) (k.coef .vWALL))) (rvbWord k m (dst - 1)))
    (k.coef .vIIR)) (rvbWord k m (dst - 1))

theorem rvbReflect_spec (cfg : Config) (c : CoreId) (dst src : Int) (lin : Half) (e : Engine) {k : Core}
    (hk : e.core c = k) :
    (rvbReflect cfg c dst src lin e).ram = rvbStored k e.ram dst (rvbReflected k e.ram dst src lin) ∧
      Signals c (rvbHits cfg k (dst - 1) + rvbHits cfg k src + rvbHits cfg k dst) e
        (rvbReflect cfg c dst src lin e) := by
  obtain ⟨a1, a2, a3⟩ := rvbRead_spec cfg c (dst - 1) e hk
  obtain ⟨b1, b2, b3⟩ := rvbRead_spec cfg c src (rvbRead cfg c (dst - 1) e).1 ((a3.cores c).trans hk)
  unfold rvbReflect
  simp only [b2, a2, a1, hk, satAdd_eq, satSub_eq, satMul_eq]
  obtain ⟨d1, d2⟩ := rvbWrite_spec cfg c dst (rvbReflected k e.ram dst src lin)
    (rvbRead cfg c src (rvbRead cfg c (dst - 1) e).1).1 ((b3.cores c).trans ((a3.cores c).trans hk))
  rw [b1, a1] at d1
  exact ⟨d1, (a3.trans b3).trans d2⟩

theorem rvbFirstComb_spec (cfg : Config) (c : CoreId) (o : RvbOffset) (n : RvbCoef) (ph : Side) (e : Engine)
    {k : Core} (hk : e.core c = k) :
    (rvbFirstComb cfg c o n ph e).1.ram = e.ram ∧
      (rvbFirstComb cfg c o n ph e).2 = times (k.coef n) (rvbWord k e.ram (k.offInt o ph)) ∧
      Signals c (rvbHits cfg k (k.offInt o ph)) e (rvbFirstComb cfg c o n ph e).1 := by
  obtain ⟨a1, a2, a3⟩ := rvbRead_spec cfg c (k.offInt o ph) e hk
  unfold rvbFirstComb
  simp only [hk, a2]
  exact ⟨a1, rfl, a3⟩

theorem rvbComb_spec (cfg : Config) (c : CoreId) (o : RvbOffset) (n : RvbCoef) (ph : Side)
    (acc : Engine × Half) {k : Core} (hk : acc.1.core c = k) :
    (rvbComb cfg c o n ph acc).1.ram = acc.1.ram ∧
      (rvbComb cfg c o n ph acc).2 = plus acc.2 (times (k.coef n) (rvbWord k acc.1.ram (k.offInt o ph))) ∧
      Signals c (rvbHits cfg k (k.offInt o ph)) acc.1 (rvbComb cfg c o n ph acc).1 := by
  obtain ⟨a1, a2, a3⟩ := rvbRead_spec cfg c (k.offInt o ph) acc.1 hk
  unfold rvbComb
  simp only [hk, a2]
  exact ⟨a1, rfl, a3⟩

theorem rvbAllPass_spec (cfg : Config) (c : CoreId) (tap dist : Int) (n : RvbCoef) (acc : Engine × Half)
    {k : Core} (hk : acc.1.core c = k) :
    let d := rvbWord k acc.1.ram (tap - dist)
    let o := minus acc.2 (times (k.coef n) d)
    (rvbAllPass cfg c tap dist n acc).1.ram = rvbStored k acc.1.ram tap o ∧
      (rvbAllPass cfg c tap dist n acc).2 = plus (times o (k.coef n)) d ∧
      Signals c (rvbHits cfg k (tap - dist) + rvbHits cfg k tap) acc.1 (rvbAllPass cfg c tap dist n acc).1 := by
  intro d o
  obtain ⟨a1, a2, a3⟩ := rvbRead_spec cfg c (tap - dist) acc.1 hk
  unfold rvbAllPass
  simp only [hk, a2]
  obtain ⟨d1, d2⟩ := rvbWrite_spec cfg c tap o (rvbRead cfg c (tap - dist) acc.1).1 ((a3.cores c).trans hk)
  rw [a1] at d1
  exact ⟨d1, rfl, a3.trans d2⟩

/-- The signals of a list of accesses, counted at once. -/
theorem sum_rvbHits (cfg : Config) (k : Core) (l : List Int) :
    (l.map (rvbHits cfg k)).sum =
      if cfg.irqSources.reverb = true ∧ k.attr.getLsbD 6 = true
      then l.countP fun x => rvbOffset k x == k.irqa else 0 := by
  have h : (l.map (rvbHits cfg k)).sum = l.countP fun x => irqHit cfg k .reverb (rvbOffset k x) := by
    induction l with
    | nil => rfl
    | cons x l ih =>
      rw [List.map_cons, List.sum_cons, ih, List.countP_cons]
      unfold rvbHits
      omega
  rw [h, countP_irqHit]
  rfl

end Sys2Proof.Machine
end

