-- ==== Sys2Proof/Tests/Slice0.lean ====
section
/-! SUPPORT. Tests of the model: the smoke test of WellFormed, the decoding of every constructor, the spec's vectors (95_test_vectors.md and the examples of the rules), and one witness for every statement that has hypotheses. -/

namespace Sys2Proof.Tests

open Sys2Proof.Machine

/-! ## Helpers -/

/-- The block after reset with the parameters of the spec's vectors (95_test_vectors, conventions). -/
def s0 : State := State.powerOn (configWith gaussLin)

/-- The state an operation answers. -/
def after (i : Instr) (s : State) : Option State :=
  match exec i s with
  | .next t => some t
  | _ => none

/-- The newest event a state records, if it is a value read. -/
def lastRead (s : State) : Option Half :=
  match s.engine.log with
  | .readData d :: _ => some d
  | _ => none

/-- The value a register read of a transaction word returns. -/
def readWord (t : TransWord) (s : State) : Option Half :=
  match decode t with
  | .ok i => (after i s).bind lastRead
  | .error _ => none

/-- Consecutive words of RAM from a word address on. -/
def words (base : Nat) : List Half → Memory
  | [] => []
  | d :: ds => (2 * base, d.extractLsb' 0 8) :: (2 * base + 1, d.extractLsb' 8 8) :: words (base + 1) ds

/-- A state with its RAM replaced. -/
def withRam (m : Memory) (s : State) : State := { s with engine := { s.engine with ram := m } }

/-- A state with core 0 replaced by an update of the core after reset. -/
def on0 (f : Core → Core) (s : State) : State := s.updCore .core0 f

/-- A state with voice 0 of core 0 updated. -/
def onV (f : Voice → Voice) (s : State) : State := s.updVoice .core0 0 f

/-- A voice with a header and a history, as vectors A1 to A10 start. -/
def decoder (hdr h1 h2 : Half) : Voice := { Voice.reset with hdr := hdr, hist1 := h1, hist2 := h2 }

/-- The samples a data word decodes to. -/
def samples (d : Half) (w : Voice) : List Half := (decodeWord s0.cfg d w).buf

/-- An envelope. -/
def env (p : Phase) (level : Half) : Envelope := ⟨p, level, 0⟩

/-! ## Well-formedness (the smoke test) -/

/-- 0x00A is `ENVX` of voice 0: not a hole. -/
theorem test_wellFormed_refuses_mapped_address : (Instr.unmapped 0x00A .read).wellFormed = false := by decide

/-- 0x9AC is the hole 0x1AC with bit 11 set, which R102 masks away. -/
theorem test_wellFormed_refuses_unmasked_address : (Instr.unmapped 0x9AC .read).wellFormed = false := by decide

theorem test_wellFormed_refuses_odd_address : (Instr.unmapped 0x1AD (.write 0)).wellFormed = false := by decide

theorem test_wellFormed_accepts_hole :
    (Instr.unmapped 0x1AC .read).wellFormed = true ∧ (Instr.unmapped 0x7FE (.write 1)).wellFormed = true := by
  decide

/-! ## Decoding: words written out from 30_encoding R100 to R108, for every constructor -/

theorem test_decode_voice_parameters :
    decode 0x100002000 = .ok (.voll .core0 0 (.write 0x2000)) ∧
    decode 0x005700000 = .ok (.voll .core1 23 .read) ∧
    decode 0x100020001 = .ok (.volr .core0 0 (.write 0x0001)) ∧
    decode 0x005720000 = .ok (.volr .core1 23 .read) ∧
    decode 0x10004FFFF = .ok (.pitch .core0 0 (.write 0xFFFF)) ∧
    decode 0x005740000 = .ok (.pitch .core1 23 .read) ∧
    decode 0x100061234 = .ok (.adsr1 .core0 0 (.write 0x1234)) ∧
    decode 0x005760000 = .ok (.adsr1 .core1 23 .read) ∧
    decode 0x100082000 = .ok (.adsr2 .core0 0 (.write 0x2000)) ∧
    decode 0x005780000 = .ok (.adsr2 .core1 23 .read) ∧
    decode 0x1000A0001 = .ok (.envx .core0 0 (.write 0x0001)) ∧
    decode 0x0057A0000 = .ok (.envx .core1 23 .read) ∧
    decode 0x1000CFFFF = .ok (.volxl .core0 0 (.write 0xFFFF)) ∧
    decode 0x0057C0000 = .ok (.volxl .core1 23 .read) ∧
    decode 0x1000E1234 = .ok (.volxr .core0 0 (.write 0x1234)) ∧
    decode 0x0057E0000 = .ok (.volxr .core1 23 .read) := by
  decide

theorem test_decode_voice_addresses :
    decode 0x101C02000 = .ok (.ssaH .core0 0 (.write 0x2000)) ∧
    decode 0x006D40000 = .ok (.ssaH .core1 23 .read) ∧
    decode 0x101C20001 = .ok (.ssaL .core0 0 (.write 0x0001)) ∧
    decode 0x006D60000 = .ok (.ssaL .core1 23 .read) ∧
    decode 0x101C4FFFF = .ok (.lsaH .core0 0 (.write 0xFFFF)) ∧
    decode 0x006D80000 = .ok (.lsaH .core1 23 .read) ∧
    decode 0x101C61234 = .ok (.lsaL .core0 0 (.write 0x1234)) ∧
    decode 0x006DA0000 = .ok (.lsaL .core1 23 .read) ∧
    decode 0x101C82000 = .ok (.naxH .core0 0 (.write 0x2000)) ∧
    decode 0x006DC0000 = .ok (.naxH .core1 23 .read) ∧
    decode 0x101CA0001 = .ok (.naxL .core0 0 (.write 0x0001)) ∧
    decode 0x006DE0000 = .ok (.naxL .core1 23 .read) := by
  decide

theorem test_decode_masks_and_control :
    decode 0x005800000 = .ok (.pmonL .core1 .read) ∧
    decode 0x105821234 = .ok (.pmonH .core1 (.write 0x1234)) ∧
    decode 0x005840000 = .ok (.nonL .core1 .read) ∧
    decode 0x105860001 = .ok (.nonH .core1 (.write 0x0001)) ∧
    decode 0x005880000 = .ok (.vmixlL .core1 .read) ∧
    decode 0x1058A1234 = .ok (.vmixlH .core1 (.write 0x1234)) ∧
    decode 0x0058C0000 = .ok (.vmixelL .core1 .read) ∧
    decode 0x1058E0001 = .ok (.vmixelH .core1 (.write 0x0001)) ∧
    decode 0x005900000 = .ok (.vmixrL .core1 .read) ∧
    decode 0x105921234 = .ok (.vmixrH .core1 (.write 0x1234)) ∧
    decode 0x005940000 = .ok (.vmixerL .core1 .read) ∧
    decode 0x105960001 = .ok (.vmixerH .core1 (.write 0x0001)) ∧
    decode 0x005980000 = .ok (.mmix .core1 .read) ∧
    decode 0x1059A1234 = .ok (.attr .core1 (.write 0x1234)) ∧
    decode 0x0059C0000 = .ok (.irqaH .core1 .read) ∧
    decode 0x1059E0001 = .ok (.irqaL .core1 (.write 0x0001)) := by
  decide

theorem test_decode_keys_transfer_autodma :
    decode 0x005A00000 = .ok (.konL .core1 .read) ∧
    decode 0x105A21234 = .ok (.konH .core1 (.write 0x1234)) ∧
    decode 0x005A40000 = .ok (.koffL .core1 .read) ∧
    decode 0x105A60001 = .ok (.koffH .core1 (.write 0x0001)) ∧
    decode 0x005A80000 = .ok (.tsaH .core1 .read) ∧
    decode 0x105AA1234 = .ok (.tsaL .core1 (.write 0x1234)) ∧
    decode 0x105B00001 = .ok (.admas .core1 (.write 0x0001)) := by
  decide

theorem test_decode_reverb_offsets_first :
    decode 0x006E00000 = .ok (.esaH .core1 .read) ∧
    decode 0x106E21234 = .ok (.esaL .core1 (.write 0x1234)) ∧
    decode 0x006E40000 = .ok (.dAPF0_H .core1 .read) ∧
    decode 0x106E60001 = .ok (.dAPF0_L .core1 (.write 0x0001)) ∧
    decode 0x006E80000 = .ok (.dAPF1_H .core1 .read) ∧
    decode 0x106EA1234 = .ok (.dAPF1_L .core1 (.write 0x1234)) ∧
    decode 0x006EC0000 = .ok (.mSAME0_H .core1 .read) ∧
    decode 0x106EE0001 = .ok (.mSAME0_L .core1 (.write 0x0001)) ∧
    decode 0x006F00000 = .ok (.mSAME1_H .core1 .read) ∧
    decode 0x106F21234 = .ok (.mSAME1_L .core1 (.write 0x1234)) ∧
    decode 0x006F40000 = .ok (.mCOMB1_0_H .core1 .read) ∧
    decode 0x106F60001 = .ok (.mCOMB1_0_L .core1 (.write 0x0001)) ∧
    decode 0x006F80000 = .ok (.mCOMB1_1_H .core1 .read) ∧
    decode 0x106FA1234 = .ok (.mCOMB1_1_L .core1 (.write 0x1234)) ∧
    decode 0x006FC0000 = .ok (.mCOMB2_0_H .core1 .read) ∧
    decode 0x106FE0001 = .ok (.mCOMB2_0_L .core1 (.write 0x0001)) ∧
    decode 0x007000000 = .ok (.mCOMB2_1_H .core1 .read) ∧
    decode 0x107021234 = .ok (.mCOMB2_1_L .core1 (.write 0x1234)) ∧
    decode 0x007040000 = .ok (.dSAME0_H .core1 .read) ∧
    decode 0x107060001 = .ok (.dSAME0_L .core1 (.write 0x0001)) ∧
    decode 0x007080000 = .ok (.dSAME1_H .core1 .read) ∧
    decode 0x1070A1234 = .ok (.dSAME1_L .core1 (.write 0x1234)) := by
  decide

theorem test_decode_reverb_offsets_second :
    decode 0x0070C0000 = .ok (.mDIFF0_H .core1 .read) ∧
    decode 0x1070E0001 = .ok (.mDIFF0_L .core1 (.write 0x0001)) ∧
    decode 0x007100000 = .ok (.mDIFF1_H .core1 .read) ∧
    decode 0x107121234 = .ok (.mDIFF1_L .core1 (.write 0x1234)) ∧
    decode 0x007140000 = .ok (.mCOMB3_0_H .core1 .read) ∧
    decode 0x107160001 = .ok (.mCOMB3_0_L .core1 (.write 0x0001)) ∧
    decode 0x007180000 = .ok (.mCOMB3_1_H .core1 .read) ∧
    decode 0x1071A1234 = .ok (.mCOMB3_1_L .core1 (.write 0x1234)) ∧
    decode 0x0071C0000 = .ok (.mCOMB4_0_H .core1 .read) ∧
    decode 0x1071E0001 = .ok (.mCOMB4_0_L .core1 (.write 0x0001)) ∧
    decode 0x007200000 = .ok (.mCOMB4_1_H .core1 .read) ∧
    decode 0x107221234 = .ok (.mCOMB4_1_L .core1 (.write 0x1234)) ∧
    decode 0x007240000 = .ok (.dDIFF0_H .core1 .read) ∧
    decode 0x107260001 = .ok (.dDIFF0_L .core1 (.write 0x0001)) ∧
    decode 0x007280000 = .ok (.dDIFF1_H .core1 .read) ∧
    decode 0x1072A1234 = .ok (.dDIFF1_L .core1 (.write 0x1234)) ∧
    decode 0x0072C0000 = .ok (.mAPF1_0_H .core1 .read) ∧
    decode 0x1072E0001 = .ok (.mAPF1_0_L .core1 (.write 0x0001)) ∧
    decode 0x007300000 = .ok (.mAPF1_1_H .core1 .read) ∧
    decode 0x107321234 = .ok (.mAPF1_1_L .core1 (.write 0x1234)) ∧
    decode 0x007340000 = .ok (.mAPF2_0_H .core1 .read) ∧
    decode 0x107360001 = .ok (.mAPF2_0_L .core1 (.write 0x0001)) ∧
    decode 0x007380000 = .ok (.mAPF2_1_H .core1 .read) ∧
    decode 0x1073A1234 = .ok (.mAPF2_1_L .core1 (.write 0x1234)) ∧
    decode 0x0073C0000 = .ok (.eeaH .core1 .read) ∧
    decode 0x1073E0001 = .ok (.eeaL .core1 (.write 0x0001)) := by
  decide

theorem test_decode_flags_and_volumes :
    decode 0x007400000 = .ok (.endxL .core1 .read) ∧
    decode 0x107421234 = .ok (.endxH .core1 (.write 0x1234)) ∧
    decode 0x007440000 = .ok (.statx .core1 .read) ∧
    decode 0x107880001 = .ok (.mvoll .core1 (.write 0x0001)) ∧
    decode 0x0078A0000 = .ok (.mvolr .core1 .read) ∧
    decode 0x1078C1234 = .ok (.evoll .core1 (.write 0x1234)) ∧
    decode 0x0078E0000 = .ok (.evolr .core1 .read) ∧
    decode 0x107900001 = .ok (.avoll .core1 (.write 0x0001)) ∧
    decode 0x007920000 = .ok (.avolr .core1 .read) ∧
    decode 0x107941234 = .ok (.bvoll .core1 (.write 0x1234)) ∧
    decode 0x007960000 = .ok (.bvolr .core1 .read) ∧
    decode 0x107980001 = .ok (.mvolxl .core1 (.write 0x0001)) ∧
    decode 0x0079A0000 = .ok (.mvolxr .core1 .read) := by
  decide

theorem test_decode_coefficients_and_shared :
    decode 0x1079C1234 = .ok (.vIIR .core1 (.write 0x1234)) ∧
    decode 0x0079E0000 = .ok (.vCOMB1 .core1 .read) ∧
    decode 0x107A00001 = .ok (.vCOMB2 .core1 (.write 0x0001)) ∧
    decode 0x007A20000 = .ok (.vCOMB3 .core1 .read) ∧
    decode 0x107A41234 = .ok (.vCOMB4 .core1 (.write 0x1234)) ∧
    decode 0x007A60000 = .ok (.vWALL .core1 .read) ∧
    decode 0x107A80001 = .ok (.vAPF1 .core1 (.write 0x0001)) ∧
    decode 0x007AA0000 = .ok (.vAPF2 .core1 .read) ∧
    decode 0x107AC1234 = .ok (.vIN0 .core1 (.write 0x1234)) ∧
    decode 0x007AE0000 = .ok (.vIN1 .core1 .read) ∧
    decode 0x107C00001 = .ok (.spdifOut (.write 0x0001)) ∧
    decode 0x007C20000 = .ok (.irqstat .read) ∧
    decode 0x107C61234 = .ok (.spdifMode (.write 0x1234)) ∧
    decode 0x007C80000 = .ok (.spdifMedia .read) := by
  decide

theorem test_decode_operations :
    decode 0x2000002BC = .ok (.run 700) ∧
    decode 0x2FFFF0064 = .ok (.run 100) ∧
    decode 0x300010001 = .ok (.runDma .core1 1) ∧
    decode 0x400000040 = .ok (.dmaWr .core0 64) ∧
    decode 0x500010020 = .ok (.dmaRd .core1 32) ∧
    decode 0x6FFFFFFFF = .ok .reset := by
  decide

theorem test_decode_unmapped :
    decode 0x001AC0000 = .ok (.unmapped 0x1AC .read) ∧
    decode 0x1F7C51234 = .ok (.unmapped 0x7C4 (.write 0x1234)) ∧
    decode 0x007460000 = .ok (.unmapped 0x746 .read) ∧
    decode 0x0075E0000 = .ok (.unmapped 0x75E .read) := by
  decide

/-- G4: address bits 15..11 and bit 0 are ignored. -/
theorem test_decode_address_reduction :
    decode 0x008010000 = .ok (.voll .core0 0 .read) ∧ decode 0x1F8011234 = .ok (.voll .core0 0 (.write 0x1234)) := by
  decide

theorem test_decode_reserved : decode 0x700000000 = .error (.reservedOperation 7) := by decide

/-- The table's bit numbering: bit 0 is the least significant bit of the 36-bit word. -/
theorem test_decodeTableWord :
    decodeTableWord 40 0x400000040 = some (.dmaWr .core0 64) ∧ decodeTableWord 40 0x1000000000 = none := by
  decide

/-- The spec writes `RUN 100` as 0x200000064 (95_test_vectors G7). -/
theorem test_encode : encode (.run 100) = 0x200000064 ∧ encode (.tsaL .core0 (.write 0x2800)) = 0x101AA2800 := by
  decide

/-! ## Register accesses (40_register_access; vectors E8, G1 to G6) -/

/-- E8 and R142: a fixed volume is doubled into the level. -/
theorem test_voll_fixed :
    (after (.voll .core0 5 (.write 0x4000)) s0).map (fun t => (t.voice .core0 5).vol.left)
      = some ⟨0x4000, 0x8000, 0⟩ := by decide

/-- E8: a sweep keeps the level it finds. -/
theorem test_voll_sweep :
    (after (.voll .core0 5 (.write 0xC000)) (s0.updVoice .core0 5 fun w => { w with vol := ⟨⟨1, 2, 0⟩, w.vol.right⟩ })).map
      (fun t => (t.voice .core0 5).vol.left) = some ⟨0xC000, 2, 0⟩ := by decide

theorem test_volr_right_only :
    (after (.volr .core1 23 (.write 0x3FFF)) s0).map (fun t => (t.voice .core1 23).vol)
      = some ⟨⟨0, 0, 0⟩, ⟨0x3FFF, 0x7FFE, 0⟩⟩ := by decide

/-- R143: a pitch above 0x3FFF is stored as written. -/
theorem test_pitch_stored :
    (after (.pitch .core1 3 (.write 0xFFFF)) s0).map (fun t => (t.voice .core1 3).pitch) = some 0xFFFF := by decide

/-- R144, R145: a write changes the register and not the envelope. -/
theorem test_adsr_stored :
    (after (.adsr1 .core0 0 (.write 0x000F)) s0).map (fun t => ((t.voice .core0 0).adsr1, (t.voice .core0 0).env))
      = some (0x000F, env .stopped 0) ∧
    (after (.adsr2 .core0 0 (.write 0x0020)) s0).map (fun t => ((t.voice .core0 0).adsr2, (t.voice .core0 0).env))
      = some (0x0020, env .stopped 0) := by decide

/-- G3: the voice views ignore writes. -/
theorem test_voice_views_read_only :
    (after (.envx .core0 5 (.write 0x1234)) s0).map (fun t => (t.voice .core0 5).env.level) = some 0 ∧
    (after (.volxl .core0 5 (.write 0x1234)) s0).map (fun t => (t.voice .core0 5).vol.left.level) = some 0 ∧
    (after (.volxr .core0 5 (.write 0x1234)) s0).map (fun t => (t.voice .core0 5).vol.right.level) = some 0 ∧
    (after (.naxH .core1 23 (.write 1)) s0).map (fun t => (t.voice .core1 23).nax) = some 0 ∧
    (after (.naxL .core1 23 (.write 1)) s0).map (fun t => (t.voice .core1 23).nax) = some 0 := by decide

/-- R142, R146, R147, R150: each view by its address. -/
theorem test_voice_views_read :
    let s := onV (fun w => { w with
      vol := ⟨⟨0x1111, 0x2222, 3⟩, ⟨0x4444, 0x5555, 6⟩⟩, env := env .sustain 0x7FFF, nax := 0x9ABCD }) s0
    readWord 0x000000000 s = some 0x1111 ∧ readWord 0x000020000 s = some 0x4444 ∧
    readWord 0x0000A0000 s = some 0x7FFF ∧ readWord 0x0000C0000 s = some 0x2222 ∧
    readWord 0x0000E0000 s = some 0x5555 ∧ readWord 0x001C80000 s = some 0x0009 ∧
    readWord 0x001CA0000 s = some 0xABCD := by decide

/-- G3: 20 bits of an address are kept. -/
theorem test_ssa_halves :
    (after (.ssaH .core1 23 (.write 0xFFFF)) s0).map (fun t => (t.voice .core1 23).ssa) = some 0xF0000 ∧
    (after (.ssaL .core1 23 (.write 0xFFF8)) s0).map (fun t => (t.voice .core1 23).ssa) = some 0x0FFF8 := by decide

/-- R149: a write of either half sets the custom-loop latch. -/
theorem test_lsa_latches :
    (after (.lsaH .core0 0 (.write 1)) s0).map (fun t => ((t.voice .core0 0).lsa, (t.voice .core0 0).customLoop))
      = some (0x10000, true) ∧
    (after (.lsaL .core0 0 (.write 0x2810)) s0).map (fun t => ((t.voice .core0 0).lsa, (t.voice .core0 0).customLoop))
      = some (0x02810, true) := by decide

/-- G2 and R111: a mask keeps 24 bits, and the other half stays. -/
theorem test_mask_halves :
    (after (.pmonH .core0 (.write 0xFFFF)) s0).map (fun t => (t.core .core0).pmon) = some 0xFF0000 ∧
    (after (.nonL .core0 (.write 0x1234)) (on0 (fun k => { k with non := 0xABCDEF }) s0)).map
      (fun t => (t.core .core0).non) = some 0xAB1234 ∧
    readWord 0x001860000 (on0 (fun k => { k with non := 0xABCDEF }) s0) = some 0x00AB := by decide

/-- R162: each routing mask by its address. -/
theorem test_routing_masks :
    let s := on0 (fun k => { k with vmixl := 0x110001, vmixel := 0x220002, vmixr := 0x330003, vmixer := 0x440004 }) s0
    readWord 0x001880000 s = some 0x0001 ∧ readWord 0x0018A0000 s = some 0x0011 ∧
    readWord 0x0018C0000 s = some 0x0002 ∧ readWord 0x0018E0000 s = some 0x0022 ∧
    readWord 0x001900000 s = some 0x0003 ∧ readWord 0x001920000 s = some 0x0033 ∧
    readWord 0x001940000 s = some 0x0004 ∧ readWord 0x001960000 s = some 0x0044 := by decide

/-- R166: a write with `IrqEnable` clear acknowledges, one with it set does not. -/
theorem test_attr_acknowledges :
    let s : State := { s0 with engine := { s0.engine with irqstat := ⟨true, true, true⟩ } }
    (after (.attr .core0 (.write 0x0080)) s).map (fun t => t.engine.irqstat) = some ⟨false, true, true⟩ ∧
    (after (.attr .core1 (.write 0x00C0)) s).map (fun t => t.engine.irqstat) = some ⟨true, true, true⟩ := by decide

/-- R167: the write of an interrupt address compares nothing. -/
theorem test_irqa :
    (after (.irqaL .core0 (.write 0x2808)) (on0 (fun k => { k with attr := 0x40, irqa := 0x20000 }) s0)).map
      (fun t => ((t.core .core0).irqa, t.engine.irqstat.cause0)) = some (0x22808, false) := by decide

/-- G1: key events accumulate. -/
theorem test_kon_accumulates :
    let s := s0.updCore .core1 fun k => { k with kon := 0x810005 }
    (after (.konL .core1 (.write 2)) s).map (fun t => (t.core .core1).kon) = some 0x810007 ∧
    (after (.konH .core1 (.write 0xFF02)) s).map (fun t => (t.core .core1).kon) = some 0x830005 := by decide

theorem test_koff_accumulates :
    let s := s0.updCore .core1 fun k => { k with koff := 0x810005 }
    (after (.koffL .core1 (.write 2)) s).map (fun t => (t.core .core1).koff) = some 0x810007 ∧
    (after (.koffH .core1 (.write 0xFF02)) s).map (fun t => (t.core .core1).koff) = some 0x830005 := by decide

/-- R170: the cursor is loaded from the whole new address, and a read gives `TSA`. -/
theorem test_tsa_reloads_cursor :
    let s := on0 (fun k => { k with tsa := 0x10000, taddr := 0x55555 }) s0
    (after (.tsaL .core0 (.write 0x2800)) s).map (fun t => ((t.core .core0).tsa, (t.core .core0).taddr))
      = some (0x12800, 0x12800) ∧
    readWord 0x001A80000 s = some 1 := by decide

/-- R171: bit `c` of core `c`'s register gates, and clearing it drops the sequence. -/
theorem test_admas_gate :
    let s := s0.updCore .core1 fun k => { k with admas := 2, adma := ⟨5, true, true⟩ }
    (after (.admas .core1 (.write 1)) s).map (fun t => (t.core .core1).adma) = some ⟨0, true, false⟩ ∧
    (after (.admas .core1 (.write 2)) s).map (fun t => (t.core .core1).adma) = some ⟨5, true, true⟩ := by decide

/-- R173: any write clears all 24 flags. -/
theorem test_endx :
    let s := on0 (fun k => { k with endx := 0x810001 }) s0
    readWord 0x003420000 s = some 0x0081 ∧
    (after (.endxH .core0 (.write 0)) s).map (fun t => (t.core .core0).endx) = some 0 := by decide

/-- R174. -/
theorem test_statx :
    readWord 0x003440000 s0 = some 0x0080 ∧
    readWord 0x003440000 (on0 (fun k => { k with dma := ⟨.write, 1, 1, 0, []⟩ }) s0) = some 0 := by decide

/-- R172, R125: offset register `n` is at 0x2E4 + 4n, its high half first. -/
theorem test_offset_registers :
    let s := on0 (fun k => { k with offs := Vector.ofFn fun n => BitVec.ofNat 20 (0x30000 + n.val) }) s0
    (∀ n : Fin 22, readWord (BitVec.ofNat 36 ((0x2E4 + 4 * n.val) * 0x10000)) s = some 3) ∧
    ∀ n : Fin 22, readWord (BitVec.ofNat 36 ((0x2E6 + 4 * n.val) * 0x10000)) s = some (BitVec.ofNat 16 n.val) := by
  decide +kernel

/-- R172: a write of one half of one offset register. -/
theorem test_offset_write :
    (after (.mAPF2_1_H .core0 (.write 0xFFF5)) s0).map (fun t => (t.core .core0).off .mAPF2 .right) = some 0x50000 ∧
    (after (.dDIFF0_L .core0 (.write 0xFFF5)) s0).map (fun t => (t.core .core0).off .dDIFF .left) = some 0x0FFF5 := by
  decide

/-- R172: a write of the work area leaves the cursor. -/
theorem test_work_area :
    (after (.esaL .core0 (.write 0x1000)) (on0 (fun k => k.updRvb fun w => { w with pos := 7 }) s0)).map
      (fun t => ((t.core .core0).esa, (t.core .core0).rvb.pos)) = some (0x01000, 7) ∧
    (after (.eeaH .core1 (.write 2)) s0).map (fun t => (t.core .core1).eea) = some 0x20000 := by decide

/-- R177, R178: the example of `MVOLL`. -/
theorem test_master_volume :
    (after (.mvoll .core0 (.write 0x3FFF)) s0).map (fun t => (t.core .core0).mvol.left) = some ⟨0x3FFF, 0x7FFE, 0⟩ ∧
    readWord 0x007720000 (on0 (fun k => { k with mvol := ⟨⟨1, 2, 0⟩, ⟨3, 4, 0⟩⟩ }) s0) = some 4 := by decide

/-- R179, R180: volumes and coefficients by their addresses on core 1 (R107). -/
theorem test_volume_block :
    let s := s0.updCore .core1 fun k => { k with
      evol := ⟨1, 2⟩, avol := ⟨3, 4⟩, bvol := ⟨5, 6⟩, coefs := Vector.ofFn fun n => BitVec.ofNat 16 (16 + n.val) }
    (∀ n : Fin 6, readWord (BitVec.ofNat 36 ((0x78C + 2 * n.val) * 0x10000)) s = some (BitVec.ofNat 16 (1 + n.val))) ∧
    ∀ n : Fin 10, readWord (BitVec.ofNat 36 ((0x79C + 2 * n.val) * 0x10000)) s = some (BitVec.ofNat 16 (16 + n.val)) := by
  decide +kernel

theorem test_coefficient_write :
    (after (.vIIR .core0 (.write 0x8000)) s0).map (fun t => (t.core .core0).coef .vIIR) = some 0x8000 ∧
    (after (.vIN1 .core0 (.write 0x7FFF)) s0).map (fun t => (t.core .core0).coef (vIN .right)) = some 0x7FFF := by
  decide

/-- R181: the example. -/
theorem test_irqstat :
    readWord 0x007C20000 { s0 with engine := { s0.engine with irqstat := ⟨false, true, true⟩ } } = some 0x0018 := by
  decide

/-- G6. -/
theorem test_spdif :
    (after (.spdifOut (.write 0xBEEF)) s0).map (fun t => t.spdif) = some ⟨0xBEEF, 0, 0⟩ ∧
    (after (.spdifMode (.write 1)) s0).map (fun t => t.spdif) = some ⟨0, 1, 0⟩ ∧
    (after (.spdifMedia (.write 2)) s0).map (fun t => t.spdif) = some ⟨0, 0, 2⟩ := by decide

/-- G5. -/
theorem test_unmapped_release :
    readWord 0x003460000 s0 = some 0 ∧
    (after (.unmapped 0x7C4 (.write 0x1234)) s0).map (fun t => t.fault.unmapped) = some (some ⟨0x7C4, true⟩) := by
  decide

/-! ## Envelopes and sweeps (41_envelope; the examples of R223 and R226, vectors E1 to E8) -/

/-- The examples of R223. -/
theorem test_envStep :
    envStep 24 ⟨0, 7, false, false⟩ 0 0 = (0x3800, 0) ∧
    envStep 24 ⟨0, -8, true, true⟩ 0x7FFF 0 = (0x3FFF, 0) ∧
    envStep 24 ⟨12, 7, false, false⟩ 0x100 0 = (0x103, 2 ^ 23) := by decide

/-- E2: above 0x6000 a rising exponential step is a quarter. -/
theorem test_envStep_exponential_rise : envStep 24 (attackRate 0x8000) 0x7000 0 = (0x7E00, 0) := by decide

/-- E5: the floor makes an exponential release end. -/
theorem test_envStep_last_release : envStep 24 (releaseRate 0x0020) 1 0 = (0, 0) := by decide

/-- The example of R226: the phase moves on in a tick of its own. -/
theorem test_envTick_attack :
    envTick 24 0 0 (env .attack 0x7000) = (env .attack 0x7FFF, true) ∧
    envTick 24 0 0 (env .attack 0x7FFF) = (env .decay 0x7FFF, true) ∧
    envTick 24 0 0 (env .decay 0x7FFF) = (env .decay 0x3FFF, true) := by decide

/-- E6 tick 6, E4 tick 8, E7 tick 5. -/
theorem test_envTick_thresholds :
    envTick 24 0x0007 0x4000 (env .decay 0x3FFF) = (env .sustain 0x3FFF, true) ∧
    envTick 24 0x000F 0 (env .release 0) = (env .stopped 0, false) ∧
    envTick 24 0x0040 0x1FC0 (env .decay 0x7FFF) = (env .decay 0x7BFF, true) := by decide

/-- E8: a decreasing sweep starts from the level it finds and clamps at 0; a fixed volume stays. -/
theorem test_volTick :
    volTick 24 ⟨0x8000, 0, 0⟩ = ⟨0x8000, 0x3800, 0⟩ ∧ volTick 24 ⟨0xE000, 0x7FFE, 0⟩ = ⟨0xE000, 0x3FFF, 0⟩ ∧
    volTick 24 ⟨0xA030, 0x8000, 0⟩ = ⟨0xA030, 0, 0⟩ ∧ volTick 24 ⟨0x4000, 0x8000, 0⟩ = ⟨0x4000, 0x8000, 0⟩ := by decide

/-- The choice of log 23: the step is added to a negative level before the clamp of R223. -/
theorem test_volTick_negative : volTick 24 ⟨0x8000, 0xFFFE, 0⟩ = ⟨0x8000, 0x37FE, 0⟩ := by decide

/-! ## The decoder (42_adpcm; vectors A1 to A12) -/

/-- A1, A2, A3. -/
theorem test_adpcm_shift :
    samples 0x7F81 (decoder 0x0000 0 0) = [0x1000, 0x8000, 0xF000, 0x7000] ∧
    samples 0x7F81 (decoder 0x000C 0 0) = [1, 0xFFF8, 0xFFFF, 7] ∧
    samples 0x7F81 (decoder 0x000F 0 0) = [1, 0xFFF8, 0xFFFF, 7] := by decide +kernel

/-- A4, A7, A8, A9 and the floor of a negative prediction. -/
theorem test_adpcm_filter :
    samples 0 (decoder 0x0010 0x1000 0) = [0x0F00, 0x0E10, 0x0D2F, 0x0C5C] ∧
    samples 1 (decoder 0x0048 0x4000 0xC000) = [0x7FFF, 0x7FFF, 0x7BFF, 0x745F] ∧
    samples 1 (decoder 0x0078 0x4000 0xC000) = [0x7FFF, 0x7FFF, 0x7BFF, 0x745F] ∧
    samples 0xF00F (decoder 0x0038 0x0100 0x0200) = [0xFFC0, 0xFEC2, 0xFE50, 0xFE6B] ∧
    samples 0 (decoder 0x0020 0xFFFF 0) = [0xFFFE, 0xFFFD, 0xFFFC, 0xFFFB] := by decide +kernel

/-- The example of R261: header at 0x2800, data at 0x2801. -/
theorem test_decodeStep :
    let k := Core.reset.updVoice 0 fun w => { w with nax := 0x2800, env := env .attack 0 }
    let w := (decodeStep s0.cfg (words 0x2800 [0x0714, 0x3210]) 0 k).voice 0
    w.nax = 0x2802 ∧ w.buf = [0x0000, 0x0100, 0x02F0, 0x05C1] ∧ w.hdr = 0x0714 ∧ w.lsa = 0x2800 := by
  decide +kernel

/-- R270: at a non-repeating end the cursor returns and the voice stops, unless it is a noise voice. -/
theorem test_loopEnd :
    let k := Core.reset.updVoice 0 fun w =>
      { w with nax := 0x2807, lsa := 0x1230, hdr := 0x0100, env := env .sustain 0x7FFF }
    let stopped := decodeStep s0.cfg (words 0x2807 [0]) 0 k
    let noisy := decodeStep s0.cfg (words 0x2807 [0]) 0 { k with non := 1 }
    (stopped.voice 0).nax = 0x1230 ∧ (stopped.voice 0).env = env .stopped 0 ∧ stopped.endx = 1 ∧
      (noisy.voice 0).nax = 0x1230 ∧ (noisy.voice 0).env = env .sustain 0x7FFF ∧ noisy.endx = 1 := by
  decide +kernel

/-- R275, R276: a key-on, and a key-on with a key-off in the same tick. -/
theorem test_keys :
    let k := { Core.reset.updVoice 0 (fun w => { w with ssa := 0x2800, counter := 5, env := env .sustain 0x5000 }) with
      kon := 1, endx := 3 }
    let on := processKeys k
    let both := processKeys { k with koff := 1 }
    (on.voice 0).env = env .attack 0 ∧ (on.voice 0).nax = 0x2800 ∧ (on.voice 0).counter = 0 ∧ on.endx = 2 ∧
      on.kon = 0 ∧ (both.voice 0).env = env .release 0 := by
  decide +kernel

/-! ## Interpolation, pitch and noise (43_interp_pitch_noise; vectors I1 to I5c, M1, NG1, NG2) -/

/-- I1, I4, I5b, I5c. -/
theorem test_interpolate :
    interpolate s0.cfg { Voice.reset with buf := [5, 0x1000, 0x2000, 9], counter := 0x800 } = 0x17D0 ∧
    interpolate s0.cfg { Voice.reset with buf := [0, 0x8000, 0x8000, 0], counter := 0x800 } = 0x8100 ∧
    interpolate s0.cfg { Voice.reset with buf := [0, 0xFFFF, 0, 0] } = 0xFFFF ∧
    interpolate s0.cfg { Voice.reset with buf := [0, 0x1000, 0, 0], counter := 0xFF0 } = 0x000F := by
  decide +kernel

/-- R291: the table of the spec's vectors is normalised, a row two off the others can be, and a row three off cannot. -/
theorem test_gauss_condition :
    gaussNormalised s0.cfg.gauss.rows = true ∧
    gaussNormalised (Vector.replicate 256 #v[0x0100, 0x0200, 0x0300, 0x0400] |>.set 255 #v[0x0100, 0x0200, 0x0300, 0x0402])
      = true ∧
    gaussNormalised (Vector.replicate 256 #v[0x0100, 0x0200, 0x0300, 0x0400] |>.set 255 #v[0x0100, 0x0200, 0x0300, 0x0403])
      = false := by decide +kernel

/-- The table of 95_test_vectors section 2.4. -/
theorem test_modulate :
    modulate 0x4000 0x1000 = 0x1800 ∧ modulate 0x8000 0x1000 = 0 ∧ modulate 0 0x8000 = 0x8000 ∧
    modulate 0x7FFF 0x8000 = 0x0001 := by decide

/-- M1, tick 17: step 0x1FFE takes two samples. -/
theorem test_advanceCounter :
    let k := { Core.reset with pmon := 2 }
    let k := (k.updVoice 0 fun w => { w with out := 0x7FF3 }).updVoice 1 fun w =>
      { w with pitch := 0x1000, counter := 0xFF3, buf := [1, 2, 3, 4] }
    ((advanceCounter 1 k).voice 1).counter = 0xFF1 ∧ ((advanceCounter 1 k).voice 1).buf = [3, 4] := by
  decide +kernel

/-- NG1, NG2. -/
theorem test_noise :
    noiseTick 0x3F ⟨0, 0⟩ = ⟨1, 1⟩ ∧ noiseTick 0x3F ⟨7, 3⟩ = ⟨0xF, 0⟩ ∧ noiseTick 0 ⟨0, 0⟩ = ⟨1, 0x1FFFC⟩ ∧
    noiseTick 0x20 ⟨1, 508⟩ = ⟨1, 504⟩ ∧ noiseShift 0x07FF = 0x0FFE ∧ noiseShift 0x7FF4 = 0xFFE8 := by decide

/-! ## Reverb (44_reverb; vectors RV1 to RV3) -/

/-- The start state of RV1, with the control register given. -/
def reverbEngine (attr : Half) (irqa : RamAddr) : Engine :=
  { s0.engine with
    ram := words 0x8000 ((List.range 32).map fun i => BitVec.ofNat 16 (0x100 * (i + 1)))
    core0 := { Core.reset with
      attr := attr
      irqa := irqa
      esa := 0x08000
      eea := 0x08020
      offs := #v[2, 3, 4, 5, 6, 7, 8, 9, 10, 11, 12, 13, 14, 15, 16, 17, 18, 19, 22, 23, 26, 27]
      coefs := #v[0x6000, 0x2000, 0x2000, 0x2000, 0x2000, 0x4000, 0x3000, 0xD000, 0x7FFF, 0x7FFF]
      rvb := { RvbWork.reset with down := ⟨Vector.replicate 39 0x1000, Vector.replicate 39 0x1000⟩ } } }

/-- RV1: the four stores, the output and the cursor. -/
theorem test_reverb :
    let r := reverb s0.cfg .core0 ⟨0x1000, 0x1000⟩ (reverbEngine 0x0080 0)
    ramRead r.1.ram 0x8004 = 0x111E ∧ ramRead r.1.ram 0x800C = 0x167E ∧ ramRead r.1.ram 0x8016 = 0x0420 ∧
    ramRead r.1.ram 0x801A = 0x1F8C ∧ r.2 = ⟨0xFFFF, 0⟩ ∧ r.1.core0.rvb.pos = 0 ∧ r.1.core0.rvb.phase = .right := by
  decide +kernel

/-- RV2: a dropped store is still compared with the interrupt address. -/
theorem test_reverb_disabled :
    let e := reverbEngine 0x0040 0x08016
    let r := reverb s0.cfg .core0 ⟨0x1000, 0x1000⟩ e
    r.1.ram = e.ram ∧ r.2 = ⟨0xFFFF, 0⟩ ∧ r.1.irqstat.cause0 = true ∧ r.1.log = [.irq .core0] := by
  decide +kernel

/-- RV3. -/
theorem test_rvbOffset :
    let k := { Core.reset with esa := 0x1000, eea := 0x2000, rvb := { RvbWork.reset with pos := 0xFFF } }
    rvbOffset k 0 = 0x1FFF ∧ rvbOffset k 1 = 0x1000 ∧ rvbOffset k (-1) = 0x1FFE ∧ rvbOffset k 0xFFFFF = 0x1FFE ∧
    ({ k with rvb := { k.rvb with phase := .right } } : Core).nextRvbPos = 0 := by decide +kernel

/-! ## DMA (46_dma; vectors DM1, DM2, DM4) -/

/-- The stream of DM1. -/
def stream64 : List Half := (List.range 64).map fun i => BitVec.ofNat 16 (0x100 + i)

/-- DM1 before its first burst. -/
def dm1 : State := on0 (fun k => { k with taddr := 0x2800, dma := ⟨.write, 64, 1, 0, stream64⟩ }) s0

/-- DM1: the start. -/
theorem test_dmaWr :
    (after (.dmaWr .core0 64) { on0 (fun k => { k with taddr := 0x2800 }) s0 with supply := stream64 }).map
      (fun t => ((t.core .core0).dma, (t.core .core0).taddr, t.engine.ram))
      = some (⟨.write, 64, 1, 0, stream64⟩, 0x2800, []) := by decide +kernel

/-- DM1, DM2: one burst, also with more cycles than asked for. -/
theorem test_runDma_burst :
    (after (.runDma .core0 0xFFFF) dm1).map
      (fun t => ((t.core .core0).dma.size, (t.core .core0).taddr, ramRead t.engine.ram 0x281F, t.engine.log))
      = some (32, 0x2820, 0x011F, []) := by decide +kernel

/-- DM1: the last burst signals completion. -/
theorem test_runDma_done :
    (after (.runDma .core0 1) (on0 (fun k => { k with dma := ⟨.write, 5, 1, 59, stream64⟩ }) dm1)).map
      (fun t => ((t.core .core0).dma.size, (t.core .core0).taddr, ramRead t.engine.ram 0x2804, t.engine.log))
      = some (0, 0x2805, 0x013F, [.dmaDone .core0]) := by decide +kernel

/-- R403: a read transfer delivers its words, and its start moves none. -/
theorem test_dmaRd :
    (after (.dmaRd .core1 2) s0).map (fun t => ((t.core .core1).dma, t.engine.log)) = some (⟨.read, 2, 1, 0, []⟩, []) ∧
    (after (.runDma .core1 1) (withRam (words 0x2800 [7, 8])
      (s0.updCore .core1 fun k => { k with taddr := 0x2800, dma := ⟨.read, 2, 1, 0, []⟩ }))).map (fun t => t.engine.log)
      = some [.dmaDone .core1, .dmaWord .core1 8, .dmaWord .core1 7] := by decide +kernel

/-- DM4. -/
theorem test_chunkBase :
    chunkBase .core0 0 false = 0x2000 ∧ chunkBase .core0 7 false = 0x20E0 ∧ chunkBase .core0 8 false = 0x2200 ∧
    chunkBase .core0 15 true = 0x23E0 ∧ chunkBase .core1 0 true = 0x2500 ∧ chunkBase .core1 8 false = 0x2600 := by decide

/-- R413 with log 24: a flip during a sequence is remembered, also where no word is left to send. -/
theorem test_admaTrigger_no_data :
    (admaTrigger .core0 (on0 (fun k => { k with admas := 1, adma := ⟨3, true, false⟩ }) s0 |>.core .core0)).adma =
      ⟨3, true, true⟩ := by decide +kernel

/-- R411: a burst of an Auto-DMA sequence goes to its chunk and leaves the cursor. -/
theorem test_autoDma_burst :
    (after (.runDma .core0 1) (on0 (fun k => { k with admas := 1, adma := ⟨16, true, false⟩ }) dm1)).map
      (fun t => ((t.core .core0).adma, (t.core .core0).taddr, ramRead t.engine.ram 0x2100, ramRead t.engine.ram 0x211F))
      = some (⟨15, true, false⟩, 0x2800, 0x0100, 0x011F) := by decide +kernel

/-! ## The clock, the tick and reset (45_mixer, 70_reset; vectors G7 and P1) -/

/-- G7: `RUN` accumulates. -/
theorem test_run_accumulates :
    (after (.run 700) s0).map (fun t => (t.runAcc, t.engine.log.countP Event.isFrame)) = some (700, 0) ∧
    (after (.run 100) { s0 with runAcc := 700 }).map (fun t => (t.runAcc, t.engine.log.countP Event.isFrame))
      = some (32, 1) := by decide +kernel

/-- P1 before its first tick. -/
def p1 : State :=
  (on0 (fun k => { k with
      vmixl := 1, vmixr := 1, mmix := 0x0C00, kon := 1, mvol := ⟨⟨0x3FFF, 0x7FFE, 0⟩, ⟨0x3FFF, 0x7FFE, 0⟩⟩ })
    (onV (fun w => { w with
      vol := ⟨⟨0x3FFF, 0x7FFE, 0⟩, ⟨0x2000, 0x4000, 0⟩⟩, pitch := 0x1000, adsr1 := 0x000F, ssa := 0x2800 })
    (withRam (words 0x2800 [0x0714, 0x3210]) s0))).updCore .core1 fun k => { k with
      mmix := 0x000C, avol := ⟨0x7FFF, 0x7FFF⟩, mvol := ⟨⟨0x3FFF, 0x7FFE, 0⟩, ⟨0x3FFF, 0x7FFE, 0⟩⟩ }

/-- P1, tick 1: cursor, envelope, queue, output, the frame, and the capture of the dry bus. -/
theorem test_run_first_tick_of_P1 :
    (after (.run 768) p1).map (fun t =>
      ((t.voice .core0 0).nax, (t.voice .core0 0).env, (t.voice .core0 0).buf.length, (t.voice .core0 0).out))
      = some (0x2802, env .attack 0x3800, 3, 0x006F) ∧
    (after (.run 768) p1).map (fun t => (t.engine.log, ramRead t.engine.ram 0x0800, (t.core .core0).kon))
      = some ([.frame ⟨0x006B, 0x0034⟩], 0x006E, 0) := by decide +kernel

/-- R382 (vector E8): the master sweep. -/
theorem test_run_master_sweep :
    (after (.run 768) (on0 (fun k => { k with mvol := ⟨⟨0x8004, 0, 0⟩, ⟨0, 0, 0⟩⟩ }) s0)).map
      (fun t => (t.core .core0).mvol.left) = some ⟨0x8004, 0x1C00, 0⟩ := by decide +kernel

/-- R470: the RAM survives, a voice does not. -/
theorem test_reset :
    (after .reset p1).map (fun t => (t.engine.ram, (t.voice .core0 0).pitch, (t.core .core1).mmix))
      = some (words 0x2800 [0x0714, 0x3210], 0, 0) := by decide +kernel

/-! ## Steps -/

/-- With nothing issued a step changes nothing. -/
theorem test_step_idle : step s0 = .next s0 := rfl

/-- An issued word is performed, and leaves the queue. -/
theorem test_step_runs :
    ∃ t, step (s0.withFetchWord 40 0x100040800) = .next t ∧ (t.voice .core0 0).pitch = 0x0800 ∧ t.pending = [] :=
  ⟨_, rfl, by decide, rfl⟩

/-- A reserved word is refused by its code. -/
theorem test_step_reserved : step (s0.withFetchWord 40 0xF00000000) = .refused (.reservedOperation 15) := rfl

/-! ## Witnesses: for every statement that has hypotheses, values that meet all of them together -/

theorem witness_DecodeInvertsEncode :
    (Instr.unmapped 0x7C4 (.write 1)).wellFormed = true ∧ (Instr.run 0xFFFF).wellFormed = true := by decide

/-- One word of each case of the ignored bits, with those bits set. -/
theorem witness_DecodedWordIsWellFormedAndCanonical :
    decode 0x0FFC3FFFF = .ok (.irqstat .read) ∧ decode 0x1FFC3FFFF = .ok (.irqstat (.write 0xFFFF)) ∧
    decode 0x2FFFFFFFF = .ok (.run 0xFFFF) ∧ decode 0x6FFFFFFFF = .ok .reset ∧
    decode 0x3FFFFFFFF = .ok (.runDma .core1 0xFFFF) ∧ decode 0x5FFFE0000 = .ok (.dmaRd .core0 0) := by decide

/-- All fourteen clauses, for voices 0 and 23 of both cores, with the ignored address bits set. -/
theorem witness_VoiceRegisterAddresses :
    ∀ c ∈ [CoreId.core0, CoreId.core1], ∀ v ∈ ([0, 23] : List VoiceId),
      (∀ r : Fin 8, ((0xF801 + BitVec.ofNat 16 (c.num * 0x400 + v.val * 0x10 + r.val * 2) : Half) &&& 0x07FE).toNat
        = c.num * 0x400 + v.val * 0x10 + r.val * 2) ∧
      ∀ k : Fin 6, ((0xF801 + BitVec.ofNat 16 (c.num * 0x400 + 0x1C0 + v.val * 0xC + k.val * 2) : Half) &&& 0x07FE).toNat
        = c.num * 0x400 + 0x1C0 + v.val * 0xC + k.val * 2 := by decide

/-- A state with one word issued. -/
def issued (t : TransWord) (s : State) : State := { s with pending := [⟨t, []⟩] }

/-- The first and the last reserved code. -/
theorem witness_ReservedOperationCodesAreRefused :
    7 ≤ (7 : BitVec 4).toNat ∧ (issued ((7#4 ++ 0#16) ++ 0#16) s0).pending = ⟨(7#4 ++ 0#16) ++ 0#16, []⟩ :: [] ∧
    7 ≤ (15 : BitVec 4).toNat ∧
      (issued ((15#4 ++ 0xFFFF#16) ++ 0xFFFF#16) s0).pending = ⟨(15#4 ++ 0xFFFF#16) ++ 0xFFFF#16, []⟩ :: [] :=
  ⟨by decide, rfl, by decide, rfl⟩

theorem witness_StepRunsTheDecodedOperation :
    (issued 0x100040800 s0).pending = ⟨0x100040800, []⟩ :: [] ∧
      decode (⟨0x100040800, []⟩ : Transaction).word = .ok (.pitch .core0 0 (.write 0x0800)) :=
  ⟨rfl, by decide⟩

theorem witness_VoiceLoopAddressRegisters :
    ((Core.reset.updVoice 23 fun w => { w with customLoop := true }).voice 23).customLoop = true := by decide +kernel

/-- Both clauses on bit 15 of a volume write, at the values where they meet. -/
theorem witness_VolumeWritten : (0x7FFF : Half).getLsbD 15 = false ∧ (0x8000 : Half).getLsbD 15 = true := by decide

/-- The other core and another voice, which the frames of the statements quantify over. -/
theorem witness_frames : CoreId.core1 ≠ .core0 ∧ CoreId.core0 ≠ .core1 ∧ (23 : VoiceId) ≠ 0 ∧ (0 : VoiceId) ≠ 23 := by
  decide

/-- The other offset registers and coefficients of the frames of `OffsetChanged` and `CoefStored`. -/
theorem witness_register_frames :
    (RvbOffset.dAPF, Side.right) ≠ (RvbOffset.dAPF, Side.left) ∧ RvbCoef.vIN1 ≠ RvbCoef.vIIR := by decide

/-- The parameters with the debug build. -/
def debugState : State := { s0 with cfg := { s0.cfg with build := .debug } }

theorem witness_UnmappedRegisterAccess : s0.cfg.build = .release ∧ debugState.cfg.build = .debug := ⟨rfl, rfl⟩

/-- A write with a side effect, and a write to no register. -/
theorem witness_RegisterWritesAreIdempotent :
    ∀ a ∈ ([0x19A, 0x342, 0xFFFF] : List Half), ∃ t,
      (∀ c, decodeRegister a (.write 0) ≠ .konL c (.write 0) ∧ decodeRegister a (.write 0) ≠ .konH c (.write 0) ∧
        decodeRegister a (.write 0) ≠ .koffL c (.write 0) ∧ decodeRegister a (.write 0) ≠ .koffH c (.write 0)) ∧
      exec (decodeRegister a (.write 0)) s0 = .next t := by
  intro a ha
  simp only [List.mem_cons, List.not_mem_nil, or_false] at ha
  rcases ha with rfl | rfl | rfl <;> exact ⟨_, fun c => by cases c <;> decide, rfl⟩

theorem witness_RegisterAccessesRaiseNoSignal :
    (∃ t, exec (decodeRegister 0x19A (.write 0x40)) s0 = .next t) ∧
    (registerAt (0x19A &&& 0x07FE : Half).toNat (.write 0x40)).isSome = true ∧
    (∃ t, exec (decodeRegister 0x7C2 .read) s0 = .next t) ∧
    (registerAt (0x7C2 &&& 0x07FE : Half).toNat .read).isSome = true :=
  ⟨⟨_, rfl⟩, by decide, ⟨_, rfl⟩, by decide⟩

theorem witness_OperationsLeaveTheHostSideAlone : ∃ t, exec (.run 0xFFFF) p1 = .next t := ⟨_, rfl⟩

/-- The smallest fraction width, the largest shift and fraction. -/
theorem witness_EnvelopeStepFormula : 22 ≤ 22 ∧ 31 < 32 ∧ 2 ^ 22 - 1 < 2 ^ 22 := by decide

/-- The five phases, and both sides of each threshold. -/
theorem witness_EnvelopeTickPhases :
    (env .stopped 0).phase = .stopped ∧
    (env .attack 0x7FFE).phase = .attack ∧ (env .attack 0x7FFF).phase = .attack ∧
    (env .decay 0x0800).phase = .decay ∧ (env .decay 0x07FF).phase = .decay ∧
    (env .sustain 0).phase = .sustain ∧
    (env .release 1).phase = .release ∧ (env .release 0).phase = .release := by decide

theorem witness_AttackNeverFalls :
    22 ≤ 22 ∧ (⟨.attack, 0x7FFE, 2 ^ 22 - 1⟩ : Envelope).phase = .attack ∧
      (⟨.attack, 0x7FFE, 2 ^ 22 - 1⟩ : Envelope).frac < 2 ^ 22 := by decide

theorem witness_ReleaseEndsInBoundedTime :
    22 ≤ 24 ∧ (⟨.release, 0x7FFF, 2 ^ 24 - 1⟩ : Envelope).phase = .release ∧
      0 ≤ (⟨.release, 0x7FFF, 2 ^ 24 - 1⟩ : Envelope).level.toInt ∧
      (⟨.release, 0x7FFF, 2 ^ 24 - 1⟩ : Envelope).frac < 2 ^ 24 := by decide

theorem witness_VolumeSweepTick :
    (⟨0x7FFF, 0xFFFE, 0⟩ : VolUnit).reg.getLsbD 15 = false ∧ (⟨0x8000, 0x7FFF, 0⟩ : VolUnit).reg.getLsbD 15 = true := by
  decide

/-- Core 0 after reset with `n` samples in the queue of voice 0. -/
def queued (n : Nat) : Core := Core.reset.updVoice 0 fun w => { w with buf := List.replicate n 1 }

/-- Both sides of 16, and the largest queue. -/
theorem witness_DecodingIsLazyAndBounded :
    16 ≤ ((queued 16).voice 0).buf.length ∧ ((queued 15).voice 0).buf.length < 16 ∧
      ((queued 19).voice 0).buf.length ≤ 19 := by decide +kernel

theorem witness_DecodeStepControl :
    ((queued 15).voice 0).buf.length < 16 ∧ ((queued 15).voice 0).env.phase = .stopped ∧
    (((queued 15).updVoice 0 Voice.keyOn).voice 0).buf.length < 16 ∧
      (((queued 15).updVoice 0 Voice.keyOn).voice 0).env.phase ≠ .stopped := by decide +kernel

theorem witness_SilentDataDecodesToSilence :
    s0.cfg.adpcmCoef.toList.head? = some (0, 0) ∧ (decoder 0x070F 0x4000 0xC000).hdr.extractLsb' 4 3 = 0#3 := by decide

/-- Core 0 after reset with key events pending. -/
def keyed (on off : VoiceMask) : Core := { Core.reset with kon := on, koff := off }

/-- No event, a key-off, a key-on, and both, at voice 23 of a core whose other voices have both. -/
theorem witness_KeyEventsOfATick :
    ((keyed 0x7FFFFF 0x7FFFFF).kon.getLsbD (23 : VoiceId).val = false ∧
      (keyed 0x7FFFFF 0x7FFFFF).koff.getLsbD (23 : VoiceId).val = false) ∧
    ((keyed 0x7FFFFF 0x800000).kon.getLsbD (23 : VoiceId).val = false ∧
      (keyed 0x7FFFFF 0x800000).koff.getLsbD (23 : VoiceId).val = true) ∧
    (keyed 0x800000 0x7FFFFF).kon.getLsbD (23 : VoiceId).val = true ∧
    ((keyed 0x800000 0x800000).kon.getLsbD (23 : VoiceId).val = true ∧
      (keyed 0x800000 0x800000).koff.getLsbD (23 : VoiceId).val = true) := by decide

/-- Both sides of a timer that runs out, with the slowest step. -/
theorem witness_NoiseGeneratorTick :
    (let k := { Core.reset with noise := ⟨1, 4⟩ };
      0 ≤ k.noise.timer - ((k.attr.extractLsb' 8 2).toNat + 4 : Int)) ∧
    (let k := { Core.reset with noise := ⟨1, 3⟩ };
      k.noise.timer - ((k.attr.extractLsb' 8 2).toNat + 4 : Int) < 0) ∧
    noiseShift 0xFFFF = noiseShift 0xFFFF := by decide

theorem witness_ReverbOffsetStaysInWorkArea :
    ({ Core.reset with esa := 0xFFFFE, eea := 0xFFFFF } : Core).esa.toNat
      < ({ Core.reset with esa := 0xFFFFE, eea := 0xFFFFF } : Core).eea.toNat := by decide

theorem witness_DegenerateWorkAreaIsInert : (s0.engine.core .core0).eea.toNat ≤ (s0.engine.core .core0).esa.toNat := by
  decide

/-- Effects disabled; effects enabled, at the word just below the area and at its end address; and a work area that holds a word. -/
theorem witness_ReverbStoresAreGatedAndConfined :
    ((reverbEngine 0x00C0 0x08002).core .core0).esa.toNat < ((reverbEngine 0x00C0 0x08002).core .core0).eea.toNat ∧
    ¬ ((reverbEngine 0x0040 0).core .core0).reverbMayWrite (2 * 0x8000 / 2) ∧
    ¬ ((reverbEngine 0x0080 0).core .core0).reverbMayWrite ((2 * 0x8000 - 1) / 2) ∧
    ¬ ((reverbEngine 0x0080 0).core .core0).reverbMayWrite (2 * 0x8020 / 2) := by
  simp only [Core.reverbMayWrite]
  decide +kernel

/-- The second core has a voice at the full level, and one at level 0. -/
theorem witness_VoiceOutputsAreLatched :
    let k := Core.reset.updVoice 23 fun w => { w with env := env .sustain 0x7FFF }
    (List.replicate 24 (0x8000 : Half)).length = 24 ∧ (∀ v, 0 ≤ (k.voice v).env.level.toInt) ∧
      (k.voice 0).env.level = 0 := by decide +kernel

/-- The row of a table, the shortest queue that is interpolated, and the levels of an engine at both ends of their range. -/
theorem witness_VoiceOutputsAreLatched_raw :
    s0.cfg.gauss.rows[255] ∈ s0.cfg.gauss.rows.toList ∧
    (queued 4).voice 0 = { Voice.reset with buf := 1 :: 1 :: 1 :: 1 :: [] } ∧
    ∀ u, 0 ≤ (((s0.updVoice .core0 23 fun w => { w with env := env .sustain 0x7FFF }).engine.core .core0).voice u).env.level.toInt :=
  ⟨by simp, by decide +kernel, by decide +kernel⟩

/-- The first and the last round of the longest `RUN` from an empty accumulator. -/
theorem witness_RunCountsTicksAndFrames :
    0 < (p1.runAcc + (0xFFFF : Half).toNat) / p1.cfg.tickCycles.val ∧
      84 < (p1.runAcc + (0xFFFF : Half).toNat) / p1.cfg.tickCycles.val := by decide

theorem witness_SuccessiveRunsAddUp :
    (0xFFFF : Half).toNat + (0 : Half).toNat < 2 ^ 16 ∧ (0x8000 : Half).toNat + (0x7FFF : Half).toNat < 2 ^ 16 ∧
      (∃ t, exec (.run 0xFFFF) p1 = .next t) ∧ ∃ t, exec (.run 0x8000) p1 = .next t :=
  ⟨by decide, by decide, ⟨_, rfl⟩, ⟨_, rfl⟩⟩

/-- The byte after the last capture area, with the reverb of both cores off. -/
theorem witness_RunStoresOnlyCapturesAndReverb :
    ∀ c, ¬ CapturedWord s0.cfg c (0x4000 / 2) ∧ ¬ (s0.core c).reverbMayWrite (0x4000 / 2) := by
  intro c
  refine ⟨?_, ?_⟩
  · rintro ⟨area, p, -, h⟩
    have hp := p.isLt
    cases c <;> cases area <;> simp [captureAddr, captureOffset, CoreId.num] at h <;> omega
  · rintro ⟨h, -⟩
    cases c <;> exact absurd h (by decide)

/-- Every capture area is written, and no reverb may write the words of the sound-in, at the first and at the last position. -/
theorem witness_RunStoresOnlyCapturesAndReverb_words :
    (s0.cfg.captureSet.sinL = true ∧ s0.cfg.captureSet.sinR = true ∧ s0.cfg.captureSet.voice1 = true ∧
      s0.cfg.captureSet.voice3 = true ∧ s0.cfg.captureSet.dryL = true ∧ s0.cfg.captureSet.dryR = true ∧
      s0.cfg.captureSet.wetL = true ∧ s0.cfg.captureSet.wetR = true) ∧
    ∀ p ∈ ([0, 0x1FF] : List (BitVec 9)), ∀ area ∈ [CaptureArea.sinL, .sinR],
      ¬ ((reverbEngine 0x0080 0).core .core0).reverbMayWrite (captureAddr .core0 area p).toNat ∧
      ¬ ((reverbEngine 0x0080 0).core .core1).reverbMayWrite (captureAddr .core1 area p).toNat := by
  simp only [Core.reverbMayWrite]
  decide +kernel

theorem witness_MasterVolumeAtResetIsSilence :
    (s0.engine.core .core0).mvol = ⟨⟨0, 0, 0⟩, ⟨0, 0, 0⟩⟩ ∧ (s0.engine.core .core1).mvol = ⟨⟨0, 0, 0⟩, ⟨0, 0, 0⟩⟩ := by
  decide

/-- The words just below and just above those that step 14 of core 1 can capture to. -/
theorem witness_MasterVolumeAtResetIsSilence_words :
    ∀ a ∈ ([0x13FF, 0x2000] : List RamAddr), ∀ p ∈ ([0, 0x1FF] : List (BitVec 9)), ∀ n, 2 ≤ n → n < 8 →
      a ≠ BitVec.ofNat 20 (CoreId.core1.num * 0x1000 + n * 0x200 + p.toNat) := by
  intro a ha p hp n h1 h2
  simp only [List.mem_cons, List.not_mem_nil, or_false] at ha hp
  rcases ha with rfl | rfl <;> rcases hp with rfl | rfl <;> interval_cases n <;> decide

/-- A hit, and a miss for each of its three conditions. -/
theorem witness_AddressMatchInterrupt :
    let e := reverbEngine 0x0040 0xFFFFF
    let off := reverbEngine 0x0080 0xFFFFF
    (s0.cfg.irqSources.has .voice = true ∧ (e.core .core0).attr.getLsbD 6 = true ∧ 0xFFFFF = (e.core .core0).irqa) ∧
    ¬ (s0.cfg.irqSources.has .dma = true ∧ (e.core .core0).attr.getLsbD 6 = true ∧ 0xFFFFF = (e.core .core0).irqa) ∧
    ¬ (s0.cfg.irqSources.has .voice = true ∧ (off.core .core0).attr.getLsbD 6 = true ∧
      0xFFFFF = (off.core .core0).irqa) ∧
    ¬ (s0.cfg.irqSources.has .voice = true ∧ (e.core .core0).attr.getLsbD 6 = true ∧ 0 = (e.core .core0).irqa) := by
  decide

/-- A voice whose cursor is at `IRQA` after the key events: at its reset value, and moved there by a key-on. -/
theorem witness_AddressMatchInterrupt_voice :
    (let k := (reverbEngine 0x0040 0).core .core0;
      s0.cfg.irqSources.voice = true ∧ k.attr.getLsbD 6 = true ∧ ((processKeys k).voice 23).nax = k.irqa) ∧
    (let k := ({ (reverbEngine 0x0040 0x02800).core .core0 with kon := 1 }).updVoice 0 fun w => { w with ssa := 0x02800 };
      k.attr.getLsbD 6 = true ∧ ((processKeys k).voice 0).nax = k.irqa) := by decide +kernel

/-- A state in which both cause bits are set. -/
def caused : State := { s0 with engine := { s0.engine with irqstat := ⟨true, true, false⟩ } }

/-- A write of the core's own register with bit 6 set, of the other core's with it clear, and an operation that is neither. -/
theorem witness_CauseStaysUntilAcknowledged :
    ∀ i ∈ [Instr.attr .core0 (.write 0x40), .attr .core1 (.write 0), .run 0xFFFF], ∃ t,
      exec i caused = .next t ∧ caused.engine.irqstat.cause .core0 = true ∧ i ≠ .reset ∧
        ∀ d, i = .attr .core0 (.write d) → d.getLsbD 6 = true := by
  intro i hi
  simp only [List.mem_cons, List.not_mem_nil, or_false] at hi
  rcases hi with rfl | rfl | rfl
  · exact ⟨_, rfl, rfl, by decide, fun d h => by injection h with _ h; injection h with h; subst h; decide⟩
  · exact ⟨_, rfl, rfl, by decide, fun d h => by injection h with h; exact absurd h (by decide)⟩
  · exact ⟨_, rfl, rfl, by decide, fun d h => by injection h⟩

/-- Core 0 with a transfer: direction, size, countdown, gate and granted bursts. -/
def transfer (dir : DmaDir) (size : Nat) (count : Int) (gate : Half) (left : Fin 17) : State :=
  on0 (fun k => { k with dma := ⟨dir, size, count, 0, stream64⟩, admas := gate, adma := ⟨left, true, false⟩ }) s0

theorem witness_RunDmaWithoutABurst :
    (s0.core .core0).dma.size = 0 ∧
    (let k := (transfer .write 64 5 0 0).core .core0;
      k.dma.size ≠ 0 ∧ 0 < k.dma.count - (4 : Half).toNat) ∧
    (let k := (transfer .write 64 5 1 0).core .core0;
      k.dma.size ≠ 0 ∧ k.dma.count - (5 : Half).toNat ≤ 0 ∧ k.dma.dir = .write ∧
        k.admas.getLsbD CoreId.core0.num = true ∧ k.adma.left = 0) := by decide +kernel

/-- A size of one word, of a full burst, and of one more; every word of the burst stands in the stream. -/
theorem witness_WriteBurstMovesWordsToRam :
    ∀ size ∈ [1, 32, 33],
      let k := (transfer .write size 1 0xFFFE 0).core .core0
      k.dma.size ≠ 0 ∧ k.dma.count - (1 : Half).toNat ≤ 0 ∧ k.dma.dir = .write ∧
        k.admas.getLsbD CoreId.core0.num = false ∧ k.dma.hostPos + (min 32 size - 1) < k.dma.stream.length := by
  decide +kernel

theorem witness_ReadBurstDeliversWords :
    ∀ size ∈ [1, 32, 33],
      let k := (transfer .read size 1 1 0).core .core0
      k.dma.size ≠ 0 ∧ k.dma.count - (1 : Half).toNat ≤ 0 ∧ k.dma.dir = .read := by decide +kernel

/-- The first and the last burst of a sequence; every word of the burst stands in the stream. -/
theorem witness_AutoDmaBurstFillsInputArea :
    ∀ left ∈ ([16, 1] : List (Fin 17)), ∀ size ∈ [1, 32, 33],
      let k := (transfer .write size 1 1 left).core .core0
      k.dma.size ≠ 0 ∧ k.dma.count - (1 : Half).toNat ≤ 0 ∧ k.dma.dir = .write ∧
        k.admas.getLsbD CoreId.core0.num = true ∧ k.adma.left ≠ 0 ∧
        k.dma.hostPos + (min 32 size - 1) < k.dma.stream.length := by decide +kernel

/-- The words of a burst at IRQA where DMA is a source and IrqEnable is set: the first, the last, and the one behind the burst. -/
theorem witness_bursts_hits :
    ∀ w ∈ [(0, 1), (31, 1), (32, 0)],
      let k := { (transfer .write 64 1 0 0).core .core0 with attr := 0x0040, irqa := wrapAdd 0 w.1 }
      let cfg : Config := { s0.cfg with irqSources := { s0.cfg.irqSources with dma := true } }
      cfg.irqSources.dma = true ∧ k.attr.getLsbD 6 = true ∧
        ((List.range 32).countP fun i => wrapAdd k.taddr i == k.irqa) = w.2 := by decide +kernel

/-- The smallest and the largest transfer of whole bursts, with `j` at both ends. -/
theorem witness_DmaWriteCompletes :
    (s0.core .core0).admas.getLsbD CoreId.core0.num = false ∧ 1 ≤ 1 ∧ 32 * 1 < 2 ^ 16 ∧ 1 ≤ 2047 ∧ 32 * 2047 < 2 ^ 16 ∧
      s0.cfg.dmaStartCycles.val ≤ (1 : Half).toNat ∧ s0.cfg.dmaBurstCycles.val ≤ (1 : Half).toNat ∧
      0 ≤ 2047 ∧ 2047 ≤ 2047 := by decide +kernel

/-- A state between operations: a key-on is pending, half a transfer is done, and `RUN` is issued. -/
def running : State :=
  on0 (fun k => { k with kon := 1, dma := ⟨.write, 32, 1, 32, stream64⟩ })
    { issued 0x200000001 s0 with runAcc := 767 }

theorem witness_StepKeepsTheInvariant : running.Inv ∧ ∃ t, step running = .next t := by
  have voice (v : VoiceId) : (Core.reset.voice v).Ok s0.cfg.envFracBits.val := by
    have h : Core.reset.voice v = Voice.reset := by simp [Core.voice, Core.reset]
    rw [h]
    exact ⟨⟨by decide, Nat.two_pow_pos _, fun _ => ⟨rfl, rfl⟩⟩, Nat.two_pow_pos _, Nat.two_pow_pos _, by decide⟩
  refine ⟨⟨⟨rfl, ?_, ?_, rfl, by decide⟩, by decide, rfl⟩, ⟨_, rfl⟩⟩
  · exact ⟨voice, Nat.two_pow_pos _, Nat.two_pow_pos _, by decide, by decide, fun _ => rfl,
      fun h => absurd h (by decide), by decide⟩
  · exact ⟨voice, Nat.two_pow_pos _, Nat.two_pow_pos _, by decide, by decide, fun _ => rfl,
      fun h => absurd h (by decide), by decide⟩

end Sys2Proof.Tests
end

/-! # What one operation does to the state

`exec_effect` says once what a step can do; the statements of 00_scope about the queue, the parameters and the record follow from it. -/

namespace Sys2Proof.Machine

/-! ## The effects of the operations -/

/-- The kinds of outcome that `exec` has in state `s`: the shared register accesses by what they return or write, and each other operation by its own meaning. -/
inductive OpEffect (s : State) : Instr → Result → Prop where
  | returned (i : Instr) (d : Half) : OpEffect s i (returnRead s d)
  | ignored (i : Instr) : OpEffect s i (.next s)
  | coreWritten (i : Instr) (c : CoreId) (f : Core → Core) : OpEffect s i (.next (s.updCore c f))
  | attrWritten (c : CoreId) (d : Half) : OpEffect s (.attr c (.write d)) (.next (writeAttr c d s))
  | spdifWritten (i : Instr) (p : Spdif) : OpEffect s i (.next { s with spdif := p })
  | unmapped (ra : Half) (a : Access) : OpEffect s (.unmapped ra a) (execUnmapped ra a s)
  | run (n : Half) : OpEffect s (.run n) (execRun n s)
  | runDma (c : CoreId) (n : Half) : OpEffect s (.runDma c n) (execRunDma c n s)
  | dmaWr (c : CoreId) (n : Half) : OpEffect s (.dmaWr c n) (execDmaWr c n s)
  | dmaRd (c : CoreId) (n : Half) : OpEffect s (.dmaRd c n) (execDmaRd c n s)
  | reset : OpEffect s .reset (execReset s)

theorem readOnlyAccess_effect (i : Instr) (rd : State → Half) (a : Access) (s : State) :
    OpEffect s i (readOnlyAccess rd a s) := by
  cases a with
  | read => exact .returned i _
  | write d => exact .ignored i

theorem coreAccess_effect (i : Instr) (c : CoreId) (rd : Core → Half) (wr : Half → Core → Core) (a : Access)
    (s : State) : OpEffect s i (coreAccess c rd wr a s) := by
  cases a with
  | read => exact .returned i _
  | write d => exact .coreWritten i c (wr d)

theorem voiceAccess_effect (i : Instr) (c : CoreId) (v : VoiceId) (rd : Voice → Half)
    (wr : Half → Voice → Voice) (a : Access) (s : State) : OpEffect s i (voiceAccess c v rd wr a s) := by
  cases a with
  | read => exact .returned i _
  | write d => exact .coreWritten i c fun k => k.updVoice v (wr d)

theorem coreAddrHigh_effect (i : Instr) (c : CoreId) (rd : Core → RamAddr) (wr : RamAddr → Core → Core)
    (a : Access) (s : State) : OpEffect s i (coreAddrHigh c rd wr a s) :=
  coreAccess_effect ..

theorem coreAddrLow_effect (i : Instr) (c : CoreId) (rd : Core → RamAddr) (wr : RamAddr → Core → Core)
    (a : Access) (s : State) : OpEffect s i (coreAddrLow c rd wr a s) :=
  coreAccess_effect ..

theorem coreMaskLow_effect (i : Instr) (c : CoreId) (rd : Core → VoiceMask) (wr : VoiceMask → Core → Core)
    (a : Access) (s : State) : OpEffect s i (coreMaskLow c rd wr a s) :=
  coreAccess_effect ..

theorem coreMaskHigh_effect (i : Instr) (c : CoreId) (rd : Core → VoiceMask) (wr : VoiceMask → Core → Core)
    (a : Access) (s : State) : OpEffect s i (coreMaskHigh c rd wr a s) :=
  coreAccess_effect ..

theorem offsetHigh_effect (i : Instr) (c : CoreId) (o : RvbOffset) (ch : Side) (a : Access) (s : State) :
    OpEffect s i (offsetHigh c o ch a s) :=
  coreAddrHigh_effect ..

theorem offsetLow_effect (i : Instr) (c : CoreId) (o : RvbOffset) (ch : Side) (a : Access) (s : State) :
    OpEffect s i (offsetLow c o ch a s) :=
  coreAddrLow_effect ..

theorem coefAccess_effect (i : Instr) (c : CoreId) (n : RvbCoef) (a : Access) (s : State) :
    OpEffect s i (coefAccess c n a s) :=
  coreAccess_effect ..

/-- A storage register of the SPDIF block, given by what a write makes of the block. -/
theorem spdifAccess_effect (i : Instr) (rd : State → Half) (wr : Half → Spdif → Spdif) (a : Access) (s : State) :
    OpEffect s i (registerAccess rd (fun d s => { s with spdif := wr d s.spdif }) a s) := by
  cases a with
  | read => exact .returned i _
  | write d => exact .spdifWritten i (wr d s.spdif)

theorem execAttr_effect (c : CoreId) (a : Access) (s : State) : OpEffect s (.attr c a) (execAttr c a s) := by
  cases a with
  | read => exact .returned _ _
  | write d => exact .attrWritten c d

/-- Every operation has one of the effects (00_scope R5), sorted by the access that its register shares with others. -/
theorem exec_effect (i : Instr) (s : State) : OpEffect s i (exec i s) := by
  unfold exec
  cases i with
  | voll | volr | pitch | adsr1 | adsr2 | ssaH | ssaL | lsaH | lsaL =>
    exact voiceAccess_effect _ _ _ _ _ _ s
  | envx | volxl | volxr | naxH | naxL | statx | mvolxl | mvolxr | irqstat =>
    exact readOnlyAccess_effect _ _ _ s
  | pmonL | nonL | vmixlL | vmixelL | vmixrL | vmixerL =>
    exact coreMaskLow_effect _ _ _ _ _ s
  | pmonH | nonH | vmixlH | vmixelH | vmixrH | vmixerH =>
    exact coreMaskHigh_effect _ _ _ _ _ s
  | irqaH | esaH | eeaH => exact coreAddrHigh_effect _ _ _ _ _ s
  | dAPF0_H | dAPF1_H | mSAME0_H | mSAME1_H | mCOMB1_0_H | mCOMB1_1_H | mCOMB2_0_H
      | mCOMB2_1_H | dSAME0_H | dSAME1_H | mDIFF0_H | mDIFF1_H | mCOMB3_0_H | mCOMB3_1_H | mCOMB4_0_H
      | mCOMB4_1_H | dDIFF0_H | dDIFF1_H | mAPF1_0_H | mAPF1_1_H | mAPF2_0_H | mAPF2_1_H =>
    exact offsetHigh_effect _ _ _ _ _ s
  | irqaL | esaL | eeaL => exact coreAddrLow_effect _ _ _ _ _ s
  | dAPF0_L | dAPF1_L | mSAME0_L | mSAME1_L | mCOMB1_0_L | mCOMB1_1_L | mCOMB2_0_L
      | mCOMB2_1_L | dSAME0_L | dSAME1_L | mDIFF0_L | mDIFF1_L | mCOMB3_0_L | mCOMB3_1_L | mCOMB4_0_L
      | mCOMB4_1_L | dDIFF0_L | dDIFF1_L | mAPF1_0_L | mAPF1_1_L | mAPF2_0_L | mAPF2_1_L =>
    exact offsetLow_effect _ _ _ _ _ s
  | mmix | konL | konH | koffL | koffH | tsaH | tsaL | admas | endxL | endxH | mvoll | mvolr | evoll
      | evolr | avoll | avolr | bvoll | bvolr =>
    exact coreAccess_effect _ _ _ _ _ s
  | vIIR | vCOMB1 | vCOMB2 | vCOMB3 | vCOMB4 | vWALL | vAPF1 | vAPF2 | vIN0 | vIN1 =>
    exact coefAccess_effect _ _ _ _ s
  | attr c a => exact execAttr_effect c a s
  | spdifOut => exact spdifAccess_effect _ _ (fun d p => { p with out := d }) _ s
  | spdifMode => exact spdifAccess_effect _ _ (fun d p => { p with mode := d }) _ s
  | spdifMedia => exact spdifAccess_effect _ _ (fun d p => { p with media := d }) _ s
  | unmapped ra a => exact .unmapped ra a
  | run n => exact .run n
  | runDma c n => exact .runDma c n
  | dmaWr c n => exact .dmaWr c n
  | dmaRd c n => exact .dmaRd c n
  | reset => exact .reset

/-! ## The record under the DMA operations (46_dma) -/

theorem dma_burstLen_le (d : Dma) : d.burstLen ≤ 32 := Nat.min_le_left ..

/-- An ordinary burst only adds to the record, in either direction. -/
theorem burst_log_suffix (cfg : Config) (missing : Nat → Half) (c : CoreId) (e : Engine) :
    e.log <:+ (burst cfg missing c e).log := by
  unfold burst
  rw [engine_updCore_log]
  cases hd : (e.core c).dma.dir with
  | write =>
    obtain ⟨-, -, -, hlog⟩ := burstLoop_write cfg missing c _ e hd (dma_burstLen_le (e.core c).dma)
    exact ⟨_, hlog.symm⟩
  | read =>
    obtain ⟨-, hlog⟩ := burstLoop_read cfg missing c (e.core c).dma.burstLen e hd
    exact ⟨_, hlog.symm⟩

theorem admaBurst_log_suffix (cfg : Config) (missing : Nat → Half) (c : CoreId) (e : Engine) :
    e.log <:+ (admaBurst cfg missing c e).log := by
  unfold admaBurst
  rw [engine_updCore_log]
  exact ⟨_, (signals_admaLoop ..).log.symm⟩

theorem finishBurst_log_suffix (cfg : Config) (c : CoreId) (e : Engine) :
    e.log <:+ (finishBurst cfg c e).log := by
  obtain ⟨-, -, -, -, hlog⟩ := finishBurst_spec cfg c e
  exact ⟨_, hlog.symm⟩

theorem runDma_log_suffix (cfg : Config) (missing : Nat → Half) (c : CoreId) (cyc : Nat) (e : Engine) :
    e.log <:+ (runDma cfg missing c cyc e).log := by
  have hcount : e.log = (e.updCore c fun k => k.setCount (k.dma.count - cyc)).log :=
    (engine_updCore_log ..).symm
  obtain ⟨-, idle⟩ | ⟨-, -, counting⟩ | ⟨-, -, -, -, waiting⟩ | ⟨-, -, -, -, auto⟩ | ⟨-, -, -, ordinary⟩ :=
    runDma_cases cfg missing c cyc e
  · rw [idle]
  · rw [counting, hcount]
  · rw [waiting, engine_updCore_log, hcount]
  · rw [auto, hcount]
    exact (admaBurst_log_suffix ..).trans (finishBurst_log_suffix ..)
  · rw [ordinary, hcount]
    exact (burst_log_suffix ..).trans (finishBurst_log_suffix ..)

/-! ## The host's side of the state -/

/-- The parameters, the queue, the supplied words and the operation counter stay, and the record only grows (log 1, log 5, log 6, log 7). -/
structure HostSideKept (s t : State) : Prop where
  cfg : t.cfg = s.cfg
  pending : t.pending = s.pending
  supply : t.supply = s.supply
  opCount : t.opCount = s.opCount
  log : s.engine.log <:+ t.engine.log

theorem HostSideKept.refl (s : State) : HostSideKept s s := ⟨rfl, rfl, rfl, rfl, List.suffix_rfl⟩

theorem hostSideKept_engine {s : State} {e : Engine} (h : s.engine.log <:+ e.log) :
    HostSideKept s { s with engine := e } :=
  ⟨rfl, rfl, rfl, rfl, h⟩

theorem hostSideKept_emit (s : State) (x : Event) : HostSideKept s (s.emit x) :=
  hostSideKept_engine (List.suffix_cons x _)

theorem hostSideKept_updCore (s : State) (c : CoreId) (f : Core → Core) : HostSideKept s (s.updCore c f) :=
  hostSideKept_engine (by simp)

theorem hostSideKept_writeAttr (s : State) (c : CoreId) (d : Half) : HostSideKept s (writeAttr c d s) := by
  unfold writeAttr
  simp only
  split
  · exact hostSideKept_updCore ..
  · exact hostSideKept_engine (by simp)

theorem hostSideKept_runCycles (n : Nat) (s : State) : HostSideKept s (runCycles n s) := by
  obtain ⟨hframe, ⟨new, hlog, -⟩, -⟩ :=
    runTicks_spec ((s.runAcc + n) / s.cfg.tickCycles.val) { s with runAcc := s.runAcc + n }
  exact ⟨hframe.cfg, hframe.pending, hframe.supply, hframe.opCount, new, hlog.symm⟩

/-- A start of the DMA engine sets up core `c` and then runs the engine. -/
theorem hostSideKept_startDma (s : State) (c : CoreId) (f : Core → Core) (cyc : Nat) :
    HostSideKept s { s with engine := runDma s.cfg (missingWords s) c cyc (s.engine.updCore c f) } := by
  refine hostSideKept_engine ?_
  have h := runDma_log_suffix s.cfg (missingWords s) c cyc (s.engine.updCore c f)
  rwa [engine_updCore_log] at h

/-- An access to an unmapped register completes in the release build alone. -/
theorem hostSideKept_execUnmapped {s t : State} {ra : Half} {a : Access} (h : execUnmapped ra a s = .next t) :
    HostSideKept s t := by
  unfold execUnmapped at h
  cases hb : s.cfg.build with
  | debug => simp [hb] at h
  | release =>
    simp only [hb] at h
    cases a with
    | read =>
      cases h
      exact ⟨rfl, rfl, rfl, rfl, List.suffix_cons _ _⟩
    | write d =>
      cases h
      exact ⟨rfl, rfl, rfl, rfl, List.suffix_rfl⟩

/-- Every effect that ends in a next state keeps the host's side. -/
theorem OpEffect.hostSideKept {s t : State} {i : Instr} {r : Result} (heffect : OpEffect s i r)
    (hr : r = .next t) : HostSideKept s t := by
  cases heffect with
  | returned _ d => cases hr; exact hostSideKept_emit s (.readData d)
  | ignored => cases hr; exact .refl s
  | coreWritten _ c f => cases hr; exact hostSideKept_updCore s c f
  | attrWritten c d => cases hr; exact hostSideKept_writeAttr s c d
  | spdifWritten => cases hr; exact ⟨rfl, rfl, rfl, rfl, List.suffix_rfl⟩
  | unmapped => exact hostSideKept_execUnmapped hr
  | run n => cases hr; exact hostSideKept_runCycles n.toNat s
  | runDma => cases hr; exact hostSideKept_engine (runDma_log_suffix ..)
  | dmaWr c => cases hr; exact hostSideKept_startDma s c _ 0
  | dmaRd c => cases hr; exact hostSideKept_startDma s c _ 0
  | reset => cases hr; exact ⟨rfl, rfl, rfl, rfl, List.suffix_rfl⟩

/-- Settles O26, from the effects of the operations: each keeps the host's side. -/
theorem operationsLeaveTheHostSideAlone : Obligations.OperationsLeaveTheHostSideAlone := by
  intro i s t h
  obtain ⟨hcfg, hpending, hsupply, hcount, new, hlog⟩ := (exec_effect i s).hostSideKept h
  exact ⟨hcfg, hpending, hsupply, hcount, new, hlog.symm⟩

/-! ## The step -/

/-- A step with an operation at the head of the queue performs it on the accepted state (00_scope R5). -/
theorem step_of_decode {s : State} {t : Transaction} {rest : List Transaction} {i : Instr}
    (hpending : s.pending = t :: rest) (hdecode : decode t.word = .ok i) :
    step s = exec i (s.accept t rest) := by
  simp only [step, hpending, hdecode]

/-- Settles O7: the state the operation starts from is the accepted one, `State.accept`. -/
theorem stepRunsTheDecodedOperation : Obligations.StepRunsTheDecodedOperation := by
  intro s t rest i hpending hdecode
  exact ⟨s.accept t rest, step_of_decode hpending hdecode, state_accept_pending .., state_accept_supply ..,
    state_accept_opCount .., by simp, by simp, by simp, state_accept_core s t rest, state_accept_cfg ..,
    state_accept_spdif .., state_accept_runAcc .., state_accept_fault .., state_accept_extIn ..⟩

end Sys2Proof.Machine

/-! # Every step keeps the invariant

The invariant of the machine through each effect of a step, from the parts up: the RAM, a voice, a core, the engine under a tick and under a DMA operation, the state. -/

namespace Sys2Proof.Machine

/-! ## The canonical form of the RAM (10_state R20, log 3) -/

theorem capWrite_wf (cfg : Config) (c : CoreId) (area : CaptureArea) (x : Half) {e : Engine}
    (h : Memory.wf e.ram = true) : Memory.wf (capWrite cfg c area x e).ram = true := by
  unfold capWrite
  split
  · exact ramWrite_wf _ _ (by simpa using h)
  · exact h

theorem captureSin_wf (cfg : Config) (c : CoreId) (sin : Frame) {e : Engine} (h : Memory.wf e.ram = true) :
    Memory.wf (captureSin cfg c sin e).ram = true :=
  capWrite_wf _ _ _ _ (capWrite_wf _ _ _ _ h)

theorem captureOuts_wf (cfg : Config) (c : CoreId) (k : Core) {e : Engine} (h : Memory.wf e.ram = true) :
    Memory.wf (captureOuts cfg c k e).ram = true :=
  capWrite_wf _ _ _ _ <| capWrite_wf _ _ _ _ <| capWrite_wf _ _ _ _ <| capWrite_wf _ _ _ _ <|
    capWrite_wf _ _ _ _ <| capWrite_wf _ _ _ _ h

theorem rvbRead_wf (cfg : Config) (c : CoreId) (x : Int) {e : Engine} (h : Memory.wf e.ram = true) :
    Memory.wf (rvbRead cfg c x e).1.ram = true := by
  rwa [(rvbRead_spec cfg c x e rfl).1]

theorem rvbWrite_wf (cfg : Config) (c : CoreId) (x : Int) (d : Half) {e : Engine} (h : Memory.wf e.ram = true) :
    Memory.wf (rvbWrite cfg c x d e).ram = true := by
  rw [(rvbWrite_spec cfg c x d e rfl).1]
  unfold rvbStored
  split
  · exact ramWrite_wf _ _ h
  · exact h

theorem rvbReflect_wf (cfg : Config) (c : CoreId) (dst src : Int) (lin : Half) {e : Engine}
    (h : Memory.wf e.ram = true) : Memory.wf (rvbReflect cfg c dst src lin e).ram = true :=
  rvbWrite_wf _ _ _ _ (rvbRead_wf _ _ _ (rvbRead_wf _ _ _ h))

theorem rvbComb_wf (cfg : Config) (c : CoreId) (o : RvbOffset) (n : RvbCoef) (ph : Side) {r : Engine × Half}
    (h : Memory.wf r.1.ram = true) : Memory.wf (rvbComb cfg c o n ph r).1.ram = true :=
  rvbRead_wf _ _ _ h

theorem rvbAllPass_wf (cfg : Config) (c : CoreId) (tap dist : Int) (n : RvbCoef) {r : Engine × Half}
    (h : Memory.wf r.1.ram = true) : Memory.wf (rvbAllPass cfg c tap dist n r).1.ram = true :=
  rvbWrite_wf _ _ _ _ (rvbRead_wf _ _ _ h)

theorem rvbCore_wf (cfg : Config) (c : CoreId) (ph : Side) (x : Half) {e : Engine} (h : Memory.wf e.ram = true) :
    Memory.wf (rvbCore cfg c ph x e).1.ram = true :=
  rvbAllPass_wf _ _ _ _ _ <| rvbAllPass_wf _ _ _ _ _ <| rvbComb_wf _ _ _ _ _ <| rvbComb_wf _ _ _ _ _ <|
    rvbComb_wf _ _ _ _ _ <| rvbRead_wf _ _ _ <| rvbReflect_wf _ _ _ _ _ <| rvbReflect_wf _ _ _ _ _ h

theorem reverb_wf (cfg : Config) (c : CoreId) (inp : Frame) {e : Engine} (h : Memory.wf e.ram = true) :
    Memory.wf (reverb cfg c inp e).1.ram = true := by
  unfold reverb rvbValue
  simp only [engine_updCore_ram]
  split
  · exact rvbCore_wf _ _ _ _ (by simpa using h)
  · simpa using h

theorem tick_wf (cfg : Config) (c : CoreId) (sin : Frame) {e : Engine} (h : Memory.wf e.ram = true) :
    Memory.wf (tick cfg c sin e).1.ram = true := by
  have hvoices : Memory.wf (voiceSteps cfg c sin e).ram = true := by
    rw [voiceSteps_ram]
    exact captureSin_wf _ _ _ h
  obtain ⟨-, -, hram, -⟩ := advancePosition_spec c (beforePosition cfg c sin (voiceSteps cfg c sin e))
  rw [tick_engine, engine_updCore_ram, hram]
  refine captureOuts_wf _ _ _ (reverb_wf _ _ _ ?_)
  simpa [readMemins, readMemin] using hvoices

theorem burstWord_wf (cfg : Config) (missing : Nat → Half) (c : CoreId) {e : Engine}
    (h : Memory.wf e.ram = true) : Memory.wf (burstWord cfg missing c e).ram = true := by
  cases hdir : (e.core c).dma.dir with
  | write =>
    rw [(burstWord_write cfg missing c e hdir).1]
    exact ramWrite_wf _ _ h
  | read => rwa [(burstWord_read cfg missing c e hdir).1]

theorem burstLoop_wf (cfg : Config) (missing : Nat → Half) (c : CoreId) (n : Nat) {e : Engine}
    (h : Memory.wf e.ram = true) : Memory.wf (burstLoop cfg missing c n e).ram = true := by
  induction n generalizing e with
  | zero => exact h
  | succ n ih => exact ih (burstWord_wf cfg missing c h)

theorem admaLoop_wf (cfg : Config) (missing : Nat → Half) (c : CoreId) (base : RamAddr) (n i : Nat) {e : Engine}
    (h : Memory.wf e.ram = true) : Memory.wf (admaLoop cfg missing c base n i e).ram = true := by
  induction n generalizing i e with
  | zero => exact h
  | succ n ih =>
    refine ih (i + 1) ?_
    rw [irqTest_ram]
    exact ramWrite_wf _ _ h

/-! ## Envelopes and voices -/

theorem envelope_move_ok {F : Nat} {e : Envelope} (r : Rate) (h : e.phase ≠ .stopped) : (e.move F r).Ok F := by
  obtain ⟨-, hlevel, -, hfrac⟩ := envStep_spec F r e.level e.frac
  exact ⟨hlevel, hfrac, fun hstopped => absurd hstopped h⟩

/-- In a running phase, only the level and the fraction are checked. -/
theorem envelope_setPhase_ok {F : Nat} {e : Envelope} (h : e.Ok F) {p : Phase} (hp : p ≠ .stopped) :
    ({ e with phase := p } : Envelope).Ok F :=
  ⟨h.level_nonneg, h.frac_lt, fun hstopped => absurd hstopped hp⟩

theorem envelope_silent_ok (F : Nat) (p : Phase) : (⟨p, 0, 0⟩ : Envelope).Ok F :=
  ⟨by simp, Nat.two_pow_pos _, fun _ => ⟨rfl, rfl⟩⟩

theorem envTick_ok {F : Nat} (a1 a2 : Half) {e : Envelope} (h : e.Ok F) : (envTick F a1 a2 e).1.Ok F := by
  obtain ⟨-, ht⟩ | ⟨-, -, ht⟩ | ⟨hp, -, ht⟩ | ⟨-, -, ht⟩ | ⟨hp, -, ht⟩ | ⟨hp, ht⟩ | ⟨-, hsilent, ht⟩ | ⟨hp, -, ht⟩ :=
    envTick_cases F a1 a2 e <;> rw [ht]
  · exact h
  · exact envelope_setPhase_ok h (by decide)
  · exact envelope_move_ok _ (by simp [hp])
  · exact envelope_setPhase_ok h (by decide)
  · exact envelope_move_ok _ (by simp [hp])
  · exact envelope_move_ok _ (by simp [hp])
  · rw [hsilent]
    exact envelope_silent_ok F .stopped
  · exact envelope_move_ok _ (by simp [hp])

theorem voice_keyOn_ok {F : Nat} {w : Voice} (h : w.Ok F) : w.keyOn.Ok F :=
  ⟨envelope_silent_ok F .attack, h.volL, h.volR, Nat.zero_le _⟩

theorem voice_release_ok {F : Nat} {w : Voice} (h : w.Ok F) : ({ w with env := w.env.release } : Voice).Ok F :=
  ⟨envelope_setPhase_ok h.env (by decide), h.volL, h.volR, h.buf_le⟩

theorem voice_loopEnd_ok {F : Nat} {w : Voice} (noiseOn : Bool) (h : w.Ok F) : (w.loopEnd noiseOn).Ok F := by
  refine ⟨?_, h.volL, h.volR, h.buf_le⟩
  unfold Voice.loopEnd
  simp only
  split
  · exact envelope_silent_ok F .stopped
  · exact h.env

/-- A decode step starts with at most 15 samples buffered and appends four (42_adpcm R263). -/
theorem decodedVoice_ok {F : Nat} (cfg : Config) (m : Memory) (noiseOn : Bool) {w : Voice} (h : w.Ok F) :
    (decodedVoice cfg m noiseOn w).Ok F := by
  obtain ⟨-, henv, hvol, -, -, -, x0, x1, x2, x3, hbuf⟩ := decodeBlockWord_spec cfg m w
  unfold decodedVoice
  split
  · exact h
  · next hlen =>
    have hword : (decodeBlockWord cfg m w).Ok F :=
      ⟨henv ▸ h.env, hvol ▸ h.volL, hvol ▸ h.volR, by rw [hbuf]; simp; omega⟩
    split
    · exact voice_loopEnd_ok noiseOn hword
    · exact hword

theorem envelopeStep_ok (cfg : Config) {w : Voice} (h : w.Ok cfg.envFracBits.val) :
    (envelopeStep cfg w).Ok cfg.envFracBits.val :=
  ⟨envTick_ok _ _ h.env, volTick_frac_lt h.volL, volTick_frac_lt h.volR, h.buf_le⟩

theorem voice_advanceCounter_ok {F : Nat} (step : Nat) {w : Voice} (h : w.Ok F) : (w.advanceCounter step).Ok F := by
  refine ⟨h.env, h.volL, h.volR, ?_⟩
  have := h.buf_le
  simp only [Voice.advanceCounter, List.length_drop]
  omega

theorem voice_setOut_ok {F : Nat} (x : Half) {w : Voice} (h : w.Ok F) : ({ w with out := x } : Voice).Ok F :=
  ⟨h.env, h.volL, h.volR, h.buf_le⟩

theorem voice_reset_ok (F : Nat) : Voice.reset.Ok F :=
  ⟨envelope_silent_ok F .stopped, Nat.two_pow_pos _, Nat.two_pow_pos _, Nat.zero_le _⟩

/-! ## Cores -/

/-- The fields of a core that `Core.Ok` speaks of, and the position. -/
def Core.checked (k : Core) : Vector Voice 24 × Pair VolUnit × Dma × Adma × Half × Noise × BitVec 9 :=
  (k.voices, k.mvol, k.dma, k.adma, k.admas, k.noise, k.outPos)

/-- A core with the same checked fields is as good. -/
theorem coreOk_of_checked {F : Nat} {c : CoreId} {k k' : Core} (h : k.Ok F c) (hsame : k'.checked = k.checked) :
    k'.Ok F c := by
  simp only [Core.checked, Prod.mk.injEq] at hsame
  obtain ⟨hvoices, hmvol, hdma, hadma, hadmas, hnoise, -⟩ := hsame
  have hvoice (v : VoiceId) : k'.voice v = k.voice v := by simp only [Core.voice, hvoices]
  have hgate : k'.admaActive c = k.admaActive c := by simp only [Core.admaActive, hadmas]
  exact ⟨fun v => hvoice v ▸ h.voices v, hmvol ▸ h.mvolL, hmvol ▸ h.mvolR, hdma ▸ h.dma_words, hdma ▸ h.dma_count,
    fun hg => hadma ▸ h.adma_gated (hgate ▸ hg), fun hp => hadma ▸ h.adma_pending (hadma ▸ hp),
    hnoise ▸ h.timer_nonneg⟩

/-- A core whose voices alone change, but for fields that are not checked. -/
theorem coreOk_of_voicePart {F : Nat} {c : CoreId} {k k' : Core} (hpart : k.VoicePart k') (h : k.Ok F c)
    (hvoices : ∀ v, (k'.voice v).Ok F) : k'.Ok F c := by
  have hgate : k'.admaActive c = k.admaActive c := by simp only [Core.admaActive, hpart.settings.admas]
  exact ⟨hvoices, hpart.mvol ▸ h.mvolL, hpart.mvol ▸ h.mvolR, hpart.settings.dma ▸ h.dma_words,
    hpart.settings.dma ▸ h.dma_count, fun hg => hpart.adma ▸ h.adma_gated (hgate ▸ hg),
    fun hp => hpart.adma ▸ h.adma_pending (hpart.adma ▸ hp), hpart.noise ▸ h.timer_nonneg⟩

/-- A core whose transfer, with its RAM cursor and its Auto-DMA counters, is replaced by a good one. -/
theorem coreOk_setDma {F : Nat} {c : CoreId} {k : Core} (h : k.Ok F c) (x : RamAddr) {d : Dma} {m : Adma}
    (hwords : d.hostPos + d.size ≤ 65535) (hcount : 0 ≤ d.count)
    (hgated : k.admaActive c = false → m.left = 0) (hpending : m.pending = true → m.left ≠ 0) :
    ({ k with taddr := x, dma := d, adma := m } : Core).Ok F c :=
  ⟨h.voices, h.mvolL, h.mvolR, hwords, hcount, hgated, hpending, h.timer_nonneg⟩

theorem coreOk_setMvol {F : Nat} {c : CoreId} {k : Core} (h : k.Ok F c) {u : Pair VolUnit}
    (hleft : u.left.frac < 2 ^ F) (hright : u.right.frac < 2 ^ F) : ({ k with mvol := u } : Core).Ok F c :=
  ⟨h.voices, hleft, hright, h.dma_words, h.dma_count, h.adma_gated, h.adma_pending, h.timer_nonneg⟩

theorem setCount_ok {F : Nat} {c : CoreId} {k : Core} (h : k.Ok F c) {n : Int} (hn : 0 ≤ n) : (k.setCount n).Ok F c :=
  coreOk_setDma h k.taddr h.dma_words hn h.adma_gated h.adma_pending

theorem coreReset_ok (F : Nat) (c : CoreId) : Core.reset.Ok F c := by
  refine ⟨fun v => ?_, Nat.two_pow_pos _, Nat.two_pow_pos _, by decide, by decide, fun _ => rfl,
    fun h => absurd h (by decide), by decide⟩
  have hv : Core.reset.voice v = Voice.reset := by simp [Core.voice, Core.reset]
  exact hv ▸ voice_reset_ok F

theorem coreOk_updVoice {F : Nat} {c : CoreId} {k : Core} (h : k.Ok F c) (v : VoiceId) {f : Voice → Voice}
    (hf : (f (k.voice v)).Ok F) : (k.updVoice v f).Ok F c := by
  refine ⟨fun u => ?_, h.mvolL, h.mvolR, h.dma_words, h.dma_count, h.adma_gated, h.adma_pending, h.timer_nonneg⟩
  by_cases hu : u = v
  · subst hu
    rwa [core_updVoice_voice_same]
  · rw [core_updVoice_voice_other _ _ hu]
    exact h.voices u

theorem keyOn_ok {F : Nat} {c : CoreId} (v : VoiceId) {k : Core} (h : k.Ok F c) : (keyOn v k).Ok F c :=
  coreOk_of_checked (coreOk_updVoice h v (voice_keyOn_ok (h.voices v))) rfl

theorem keyOff_ok {F : Nat} {c : CoreId} (v : VoiceId) {k : Core} (h : k.Ok F c) : (keyOff v k).Ok F c :=
  coreOk_updVoice h v (voice_release_ok (h.voices v))

theorem processKeys_ok {F : Nat} {c : CoreId} {k : Core} (h : k.Ok F c) : (processKeys k).Ok F c := by
  have hon : (forVoices (fun v k => if voiceBit k.kon v then keyOn v k else k) k).Ok F c := by
    refine forVoices_induct (P := fun k => k.Ok F c) (fun v k hk => ?_) h
    split
    · exact keyOn_ok v hk
    · exact hk
  refine coreOk_of_checked (forVoices_induct (P := fun k => k.Ok F c)
    (f := fun v k => if voiceBit k.koff v then keyOff v k else k) (fun v k hk => ?_) hon) rfl
  split
  · exact keyOff_ok v hk
  · exact hk

/-- Core `c` after steps 1 to 9: the key events, then each voice's own decode step, envelope step and counter. -/
theorem voiceSteps_ok (cfg : Config) (c : CoreId) (sin : Frame) {e : Engine}
    (h : (e.core c).Ok cfg.envFracBits.val c) : ((voiceSteps cfg c sin e).core c).Ok cfg.envFracBits.val c := by
  refine coreOk_of_voicePart (voiceSteps_voicePart cfg c sin e) h fun v => ?_
  have hkeys := (processKeys_ok h).voices v
  rw [voiceSteps_core, latchOuts_voice, advanceCounters_voice, envelopeVoices_voice, decodeSteps_voice,
    decodeStep_voice_same]
  exact voice_setOut_ok _ (voice_advanceCounter_ok _ (envelopeStep_ok cfg (decodedVoice_ok cfg _ _ hkeys)))

theorem noiseReload_ge {clock : Nat} (h : clock < 64) : 4 ≤ noiseReload clock := by
  have hexp : clock / 4 ≤ 15 := by omega
  calc
    4 = 0x20000 / 2 ^ 15 := rfl
    _ ≤ 0x20000 / 2 ^ (clock / 4) :=
      Nat.div_le_div_left (Nat.pow_le_pow_right (by decide) hexp) (Nat.two_pow_pos _)

/-- A tick takes at most 7 off the timer, and each of the two reloads adds at least 4 (43_interp_pitch_noise R301, R302). -/
theorem noiseTick_timer_nonneg {clock : Nat} (hclock : clock < 64) {n : Noise} (h : 0 ≤ n.timer) :
    0 ≤ (noiseTick clock n).timer := by
  have hreload := noiseReload_ge hclock
  have hstep : noiseStep clock ≤ 7 := by unfold noiseStep; omega
  simp only [noiseTick, noiseRewind]
  omega

theorem noiseTick_ok {F : Nat} {c : CoreId} {k : Core} (h : k.Ok F c) : k.noiseTick.Ok F c :=
  ⟨h.voices, h.mvolL, h.mvolR, h.dma_words, h.dma_count, h.adma_gated, h.adma_pending,
    noiseTick_timer_nonneg (bitField_of_lt attrNoiseClock k.attr) h.timer_nonneg⟩

theorem endTick_ok (cfg : Config) {c : CoreId} {k : Core} (h : k.Ok cfg.envFracBits.val c) :
    (k.endTick cfg).Ok cfg.envFracBits.val c :=
  coreOk_setMvol (noiseTick_ok h) (volTick_frac_lt h.mvolL) (volTick_frac_lt h.mvolR)

theorem admaTrigger_ok {F : Nat} {c : CoreId} {k : Core} (h : k.Ok F c) : (admaTrigger c k).Ok F c := by
  obtain ⟨hactive, hleft, ht⟩ | ⟨hactive, -, -, ht⟩ | ⟨-, -, -, ht⟩ | ⟨-, ht⟩ := admaTrigger_cases c k <;> rw [ht]
  · exact coreOk_setDma h _ h.dma_words h.dma_count (by simp [hactive]) fun _ => hleft
  · exact coreOk_setDma h _ h.dma_words h.dma_count (by simp [hactive]) fun _ => by simp
  · exact h
  · exact h

/-! ## The engine -/

theorem Engine.Ok.core {F : Nat} {e : Engine} (h : e.Ok F) (c : CoreId) : (e.core c).Ok F c := by
  cases c
  · exact h.core0
  · exact h.core1

/-- An engine of which one core alone changes, without its position. -/
theorem engineOk_of_core {F : Nat} {e e' : Engine} (h : e.Ok F) (c : CoreId) (hram : Memory.wf e'.ram = true)
    (hhalf : e'.irqstat.half = e.irqstat.half) (hother : ∀ c', c' ≠ c → e'.core c' = e.core c')
    (hcore : (e'.core c).Ok F c) (hpos : (e'.core c).outPos = (e.core c).outPos) : e'.Ok F := by
  cases c with
  | core0 =>
    have h1 : e'.core1 = e.core1 := hother .core1 (by decide)
    have hp : e'.core0.outPos = e.core0.outPos := hpos
    exact ⟨hram, hcore, h1 ▸ h.core1, by rw [hp, h1]; exact h.lockstep, by rw [hhalf, hp]; exact h.half_eq⟩
  | core1 =>
    have h0 : e'.core0 = e.core0 := hother .core0 (by decide)
    have hp : e'.core1.outPos = e.core1.outPos := hpos
    exact ⟨hram, h0 ▸ h.core0, hcore, by rw [hp, h0]; exact h.lockstep, by rw [hhalf, h0]; exact h.half_eq⟩

theorem engineOk_updCore {F : Nat} {e : Engine} (h : e.Ok F) (c : CoreId) {f : Core → Core}
    (hcore : (f (e.core c)).Ok F c) (hpos : (f (e.core c)).outPos = (e.core c).outPos) : (e.updCore c f).Ok F :=
  engineOk_of_core h c (by simpa using h.ram_wf) (by simp) (fun _ hc => engine_updCore_core_other _ _ hc)
    (by simpa using hcore) (by simpa using hpos)

theorem engineOk_emit {F : Nat} {e : Engine} (h : e.Ok F) (x : Event) : (e.emit x).Ok F :=
  ⟨h.ram_wf, h.core0, h.core1, h.lockstep, h.half_eq⟩

theorem engineOk_acknowledgeIrq {F : Nat} {e : Engine} (h : e.Ok F) (c : CoreId) : (acknowledgeIrq c e).Ok F :=
  ⟨h.ram_wf, h.core0, h.core1, h.lockstep, (irqStat_setCause_half ..).trans h.half_eq⟩

/-! ## The tick (45_mixer R363, R380) -/

/-- Bit 8 of the position changes only at a multiple of 0x100. -/
theorem outPos_succ_bit8 (q : BitVec 9) (h : (q + 1).extractLsb' 0 8 ≠ 0#8) :
    (q + 1).getLsbD 8 = q.getLsbD 8 := by
  revert q
  decide

/-- Moving the position on leaves the half bit at bit 8 of it, whether the other core's tick has moved the half bit already or not. -/
theorem advancePosition_half {c : CoreId} {e : Engine}
    (h : e.irqstat.half = (e.core c).outPos.getLsbD 8 ∨ e.irqstat.half = ((e.core c).outPos + 1).getLsbD 8) :
    (advancePosition c e).irqstat.half = ((e.core c).outPos + 1).getLsbD 8 := by
  have hpos : ((e.updCore c Core.advanceOutPos).core c).outPos = (e.core c).outPos + 1 := by
    rw [engine_updCore_core_same]
    rfl
  unfold advancePosition
  obtain ⟨-, hflip⟩ | ⟨hne, hflip⟩ := flipHalf_cases c (e.updCore c Core.advanceOutPos) <;> rw [hflip]
  · rw [engine_updCore_irqstat, engine_setHalf_half, hpos]
  · rw [hpos] at hne
    rw [engine_updCore_irqstat]
    exact h.elim (fun hold => hold.trans (outPos_succ_bit8 _ hne).symm) id

theorem advancePosition_ok {F : Nat} {c : CoreId} {e : Engine} (h : (e.core c).Ok F c) :
    ((advancePosition c e).core c).Ok F c := by
  have hpos : (e.core c).advanceOutPos.Ok F c :=
    ⟨h.voices, h.mvolL, h.mvolR, h.dma_words, h.dma_count, h.adma_gated, h.adma_pending, h.timer_nonneg⟩
  unfold advancePosition
  obtain ⟨-, hflip⟩ | ⟨-, hflip⟩ := flipHalf_cases c (e.updCore c Core.advanceOutPos) <;> rw [hflip]
  · rw [engine_updCore_core_same, engine_setHalf_core, engine_updCore_core_same]
    exact admaTrigger_ok hpos
  · rwa [engine_updCore_core_same]

theorem tick_core_ok (cfg : Config) (c : CoreId) (sin : Frame) {e : Engine}
    (h : (e.core c).Ok cfg.envFracBits.val c) : ((tick cfg c sin e).1.core c).Ok cfg.envFracBits.val c := by
  obtain ⟨w, hw⟩ := beforePosition_core cfg c sin (voiceSteps cfg c sin e)
  have hbefore : ((beforePosition cfg c sin (voiceSteps cfg c sin e)).core c).Ok cfg.envFracBits.val c := by
    rw [hw]
    exact coreOk_of_checked (voiceSteps_ok cfg c sin h) rfl
  rw [tick_engine, engine_updCore_core_same]
  exact endTick_ok cfg (advancePosition_ok hbefore)

theorem tick_outPos (cfg : Config) (c : CoreId) (sin : Frame) (e : Engine) :
    ((tick cfg c sin e).1.core c).outPos = (e.core c).outPos + 1 := by
  obtain ⟨w, m, hcore⟩ := tick_core cfg c sin e
  rw [hcore]
  show ((voiceSteps cfg c sin e).core c).outPos + 1 = _
  rw [(voiceSteps_voicePart cfg c sin e).outPos]

theorem tick_half (cfg : Config) (c : CoreId) (sin : Frame) {e : Engine}
    (h : e.irqstat.half = (e.core c).outPos.getLsbD 8 ∨ e.irqstat.half = ((e.core c).outPos + 1).getLsbD 8) :
    (tick cfg c sin e).1.irqstat.half = ((e.core c).outPos + 1).getLsbD 8 := by
  obtain ⟨w, hw⟩ := beforePosition_core cfg c sin (voiceSteps cfg c sin e)
  have hpos : ((beforePosition cfg c sin (voiceSteps cfg c sin e)).core c).outPos = (e.core c).outPos := by
    rw [hw]
    exact (voiceSteps_voicePart cfg c sin e).outPos
  rw [tick_engine, engine_updCore_irqstat, advancePosition_half (by rw [hpos]; simpa using h), hpos]

/-- A tick of core 0 takes the positions out of step, and the tick of core 1 that follows brings them back. -/
theorem tickBoth_ok (cfg : Config) (sin : Frame) {e : Engine} (h : e.Ok cfg.envFracBits.val) :
    (tickBoth cfg sin e).Ok cfg.envFracBits.val := by
  have core1_kept := (tickFrame_tick cfg .core0 sin e).other .core1 (by decide)
  have wf0 := tick_wf cfg .core0 sin h.ram_wf
  have ok0 := tick_core_ok cfg .core0 sin (h.core .core0)
  have pos0 := tick_outPos cfg .core0 sin e
  have half0 := tick_half cfg .core0 sin (.inl h.half_eq)
  unfold tickBoth
  refine engineOk_emit ?_ _
  generalize (tick cfg .core0 sin e).1 = e0 at *
  generalize (tick cfg .core0 sin e).2 = sin'
  have core0_kept := (tickFrame_tick cfg .core1 sin' e0).other .core0 (by decide)
  have pos1 := tick_outPos cfg .core1 sin' e0
  have next_pos : (e0.core .core1).outPos + 1 = (e.core .core0).outPos + 1 := by
    rw [core1_kept]
    exact congrArg (· + 1) h.lockstep.symm
  have half1 := tick_half cfg .core1 sin' (.inr (half0.trans (congrArg (BitVec.getLsbD · 8) next_pos.symm)))
  refine ⟨tick_wf cfg .core1 sin' wf0, ?_, ?_, ?_, ?_⟩
  · exact cast (congrArg (Core.Ok _ .core0) core0_kept.symm) ok0
  · exact tick_core_ok cfg .core1 sin' (core1_kept ▸ h.core .core1)
  · calc
      ((tick cfg .core1 sin' e0).1.core .core0).outPos = (e0.core .core0).outPos := by rw [core0_kept]
      _ = (e0.core .core1).outPos + 1 := pos0.trans next_pos.symm
      _ = ((tick cfg .core1 sin' e0).1.core .core1).outPos := pos1.symm
  · calc
      (tick cfg .core1 sin' e0).1.irqstat.half = (e0.core .core0).outPos.getLsbD 8 := by rw [half1, next_pos, pos0]
      _ = ((tick cfg .core1 sin' e0).1.core .core0).outPos.getLsbD 8 := by rw [core0_kept]

theorem runTicks_engine_ok (n : Nat) {s : State} (h : s.engine.Ok s.cfg.envFracBits.val) :
    (runTicks n s).engine.Ok s.cfg.envFracBits.val := by
  induction n generalizing s with
  | zero => exact h
  | succ n ih =>
    exact ih (s := tickPair { s with runAcc := s.runAcc - s.cfg.tickCycles.val })
      (tickBoth_ok s.cfg (s.extIn.headD s.cfg.extIn) h)

/-! ## The DMA engine (46_dma R402, R405, R411) -/

theorem dma_burstLen_le_size (d : Dma) : d.burstLen ≤ d.size := Nat.min_le_right ..

/-- The engine with the cycles of a `RUNDMA` taken off the countdown of core `c` (R405). -/
def Engine.countDown (c : CoreId) (cyc : Nat) (e : Engine) : Engine :=
  e.updCore c fun k => k.setCount (k.dma.count - cyc)

theorem engine_countDown_core_same (c : CoreId) (cyc : Nat) (e : Engine) :
    (e.countDown c cyc).core c = (e.core c).setCount ((e.core c).dma.count - cyc) :=
  engine_updCore_core_same ..

theorem engine_countDown_core_other {c c' : CoreId} (cyc : Nat) (e : Engine) (hc : c' ≠ c) :
    (e.countDown c cyc).core c' = e.core c' :=
  engine_updCore_core_other _ _ hc

/-- A burst of core `c` and its end, from what the burst leaves. -/
theorem finishBurst_ok (cfg : Config) (c : CoreId) {F : Nat} {e e' : Engine} (h : e.Ok F)
    (hram : Memory.wf e'.ram = true) (hhalf : e'.irqstat.half = e.irqstat.half)
    (hother : ∀ c', c' ≠ c → e'.core c' = e.core c')
    (hcore : ((e'.core c).setCount cfg.dmaBurstCycles.val).Ok F c)
    (hpos : (e'.core c).outPos = (e.core c).outPos) : (finishBurst cfg c e').Ok F := by
  obtain ⟨fram, firqstat, fcore, fother, -⟩ := finishBurst_spec cfg c e'
  exact engineOk_of_core h c (fram ▸ hram) (firqstat ▸ hhalf) (fun c' hc => (fother c' hc).trans (hother c' hc))
    (fcore ▸ hcore) (fcore ▸ hpos)

theorem countDown_burstLen (c : CoreId) (cyc : Nat) (e : Engine) :
    ((e.countDown c cyc).core c).dma.burstLen = (e.core c).dma.burstLen := by
  rw [engine_countDown_core_same]
  rfl

theorem ordinaryBurst_ok (cfg : Config) (missing : Nat → Half) (c : CoreId) (cyc : Nat) {F : Nat} {e : Engine}
    (h : e.Ok F) : (finishBurst cfg c (burst cfg missing c (e.countDown c cyc))).Ok F := by
  have hloop := burstFrame_loop cfg missing c (e.core c).dma.burstLen (e.countDown c cyc)
  have hle := dma_burstLen_le_size (e.core c).dma
  have hcore := h.core c
  have hwords := hcore.dma_words
  unfold burst
  simp only [countDown_burstLen]
  refine finishBurst_ok cfg c h ?_ ?_ (fun c' hc => ?_) ?_ ?_
  · rw [engine_updCore_ram]
    exact burstLoop_wf cfg missing c _ ((engine_updCore_ram ..).symm ▸ h.ram_wf)
  · rw [engine_updCore_irqstat, hloop.half]
    exact congrArg IrqStat.half (engine_updCore_irqstat ..)
  · rw [engine_updCore_core_other _ _ hc, hloop.other c' hc, engine_countDown_core_other _ _ hc]
  · rw [engine_updCore_core_same, hloop.core, engine_countDown_core_same]
    have hsum : (e.core c).dma.hostPos + (e.core c).dma.burstLen + ((e.core c).dma.size - (e.core c).dma.burstLen) ≤
        65535 := by omega
    exact coreOk_setDma hcore _ hsum (Int.natCast_nonneg _) hcore.adma_gated hcore.adma_pending
  · rw [engine_updCore_core_same, hloop.core, engine_countDown_core_same]
    rfl

/-- The last burst of a sequence grants or drops a remembered refill; every other burst leaves part of the sequence (R411). -/
theorem endAdmaBurst_ok {F : Nat} {c : CoreId} {k : Core} (h : k.Ok F c) (hactive : k.admaActive c = true)
    {n : Nat} (hn : n ≤ k.dma.size) (x : Int) {y : Int} (hy : 0 ≤ y) :
    (((k.setCount x).endAdmaBurst n).setCount y).Ok F c := by
  have hwords := h.dma_words
  rw [endAdmaBurst_setCount]
  refine coreOk_setDma h k.taddr (by simp only; omega) hy (by simp [hactive]) ?_
  split
  · split <;> simp
  · next hkeep =>
    intro hp
    have hleft : k.adma.left ≠ 1 := fun hl => hkeep ⟨hl, hp⟩
    exact sub_ne_zero.2 hleft

theorem endAdmaBurst_outPos (k : Core) (n : Nat) (x : Int) : ((k.setCount x).endAdmaBurst n).outPos = k.outPos := by
  have h := congrArg Core.outPos (endAdmaBurst_setCount k n x 0)
  exact h

theorem autoBurst_ok (cfg : Config) (missing : Nat → Half) (c : CoreId) (cyc : Nat) {F : Nat} {e : Engine}
    (h : e.Ok F) (hactive : (e.core c).admaActive c = true) :
    (finishBurst cfg c (admaBurst cfg missing c (e.countDown c cyc))).Ok F := by
  unfold admaBurst
  simp only [countDown_burstLen]
  refine finishBurst_ok cfg c h ?_ ?_ (fun c' hc => ?_) ?_ ?_
  · rw [engine_updCore_ram]
    exact admaLoop_wf cfg missing c _ _ _ ((engine_updCore_ram ..).symm ▸ h.ram_wf)
  · rw [engine_updCore_irqstat, (signals_admaLoop ..).half]
    exact congrArg IrqStat.half (engine_updCore_irqstat ..)
  · rw [engine_updCore_core_other _ _ hc, admaLoop_core, engine_countDown_core_other _ _ hc]
  · rw [engine_updCore_core_same, admaLoop_core, engine_countDown_core_same]
    exact endAdmaBurst_ok (h.core c) hactive (dma_burstLen_le_size _) _ (Int.natCast_nonneg _)
  · rw [engine_updCore_core_same, admaLoop_core, engine_countDown_core_same]
    exact endAdmaBurst_outPos ..

theorem runDma_ok (cfg : Config) (missing : Nat → Half) (c : CoreId) (cyc : Nat) {F : Nat} {e : Engine}
    (h : e.Ok F) : (runDma cfg missing c cyc e).Ok F := by
  obtain ⟨-, idle⟩ | ⟨-, hcount, counting⟩ | ⟨-, -, -, -, waiting⟩ | ⟨-, -, ⟨-, hgate⟩, -, auto⟩ | ⟨-, -, -, ordinary⟩ :=
    runDma_cases cfg missing c cyc e
  · rwa [idle]
  · rw [counting]
    exact engineOk_updCore h c (setCount_ok (h.core c) hcount.le) rfl
  · rw [waiting, engine_updCore_updCore]
    exact engineOk_updCore h c (setCount_ok (h.core c) le_rfl) rfl
  · rw [auto]
    exact autoBurst_ok cfg missing c cyc h (by rwa [admaActive_eq])
  · rw [ordinary]
    exact ordinaryBurst_ok cfg missing c cyc h

theorem dmaStart_ok (cfg : Config) (dir : DmaDir) {n : Nat} (hn : n ≤ 65535) (stream : List Half) {F : Nat}
    {c : CoreId} {k : Core} (h : k.Ok F c) : (k.updDma fun _ => Dma.start cfg dir n stream).Ok F c :=
  coreOk_setDma h k.taddr (by simpa [Dma.start] using hn) (Int.natCast_nonneg _) h.adma_gated h.adma_pending

theorem grantAtStart_ok {F : Nat} {c : CoreId} (n : Nat) {k : Core} (h : k.Ok F c) : (grantAtStart c n k).Ok F c := by
  unfold grantAtStart
  split
  · next hgrant =>
    exact coreOk_setDma h k.taddr h.dma_words h.dma_count (by simp [hgrant.1])
      (fun hp => absurd hp Bool.false_ne_true)
  · exact h

@[simp] theorem grantAtStart_outPos (c : CoreId) (n : Nat) (k : Core) : (grantAtStart c n k).outPos = k.outPos := by
  unfold grantAtStart
  split <;> rfl

theorem startWrite_ok (cfg : Config) (missing : Nat → Half) (c : CoreId) {n : Nat} (hn : n ≤ 65535)
    (stream : List Half) {F : Nat} {e : Engine} (h : e.Ok F) : (startWrite cfg missing c n stream e).Ok F :=
  runDma_ok cfg missing c 0
    (engineOk_updCore h c (grantAtStart_ok n (dmaStart_ok cfg .write hn stream (h.core c))) (by simp))

theorem startRead_ok (cfg : Config) (missing : Nat → Half) (c : CoreId) {n : Nat} (hn : n ≤ 65535) {F : Nat}
    {e : Engine} (h : e.Ok F) : (startRead cfg missing c n e).Ok F :=
  runDma_ok cfg missing c 0 (engineOk_updCore h c (dmaStart_ok cfg .read hn [] (h.core c)) rfl)

/-! ## The state -/

theorem State.Inv.withEngine {s : State} (h : s.Inv) {e : Engine} (he : e.Ok s.cfg.envFracBits.val) :
    ({ s with engine := e } : State).Inv :=
  ⟨he, h.runAcc_lt, h.badPhase⟩

theorem emit_inv {s : State} (h : s.Inv) (x : Event) : (s.emit x).Inv := h.withEngine (engineOk_emit h.engine x)

theorem accept_inv {s : State} (h : s.Inv) (t : Transaction) (rest : List Transaction) : (s.accept t rest).Inv :=
  ⟨engineOk_emit h.engine _, h.runAcc_lt, h.badPhase⟩

theorem updCore_inv {s : State} (h : s.Inv) (c : CoreId) {f : Core → Core}
    (hcore : (f (s.core c)).Ok s.cfg.envFracBits.val c) (hpos : (f (s.core c)).outPos = (s.core c).outPos) :
    (s.updCore c f).Inv :=
  h.withEngine (engineOk_updCore h.engine c hcore hpos)

theorem writeAttr_inv {s : State} (h : s.Inv) (c : CoreId) (d : Half) : (writeAttr c d s).Inv := by
  have hstored : (s.updCore c fun k => { k with attr := d }).Inv :=
    updCore_inv h c (coreOk_of_checked (h.engine.core c) rfl) rfl
  unfold writeAttr
  simp only
  split
  · exact hstored
  · exact hstored.withEngine (engineOk_acknowledgeIrq hstored.engine c)

/-- The rounds of `RUN` take whole quanta off the accumulator, and leave its remainder (45_mixer R361). -/
theorem runCycles_inv {s : State} (h : s.Inv) (n : Nat) : (runCycles n s).Inv := by
  obtain ⟨hframe, -, -, hacc⟩ :=
    runTicks_spec ((s.runAcc + n) / s.cfg.tickCycles.val) { s with runAcc := s.runAcc + n }
  have hcfg : (runCycles n s).cfg = s.cfg := hframe.cfg
  have hmod : (runCycles n s).runAcc = (s.runAcc + n) % s.cfg.tickCycles.val := by
    rw [Nat.mod_eq_sub_div_mul]
    exact hacc
  refine ⟨?_, ?_, (congrArg FaultRecord.badPhase hframe.fault).trans h.badPhase⟩
  · rw [hcfg]
    exact runTicks_engine_ok _ (s := { s with runAcc := s.runAcc + n }) h.engine
  · rw [hmod, hcfg]
    exact Nat.mod_lt _ (atLeast_one_pos _)

theorem reset_half_eq : IrqStat.reset.half = Core.reset.outPos.getLsbD 8 := by decide

theorem resetBlock_inv {s : State} (h : s.Inv) : (resetBlock s).Inv :=
  ⟨⟨h.engine.ram_wf, coreReset_ok _ _, coreReset_ok _ _, rfl, reset_half_eq⟩, atLeast_one_pos _, rfl⟩

/-! ## The operations -/

/-- Every next state that an outcome answers meets the invariant. -/
def LeadsToInv (r : Result) : Prop := ∀ t, r = .next t → t.Inv

theorem leadsToInv_next {t : State} (h : t.Inv) : LeadsToInv (.next t) := by
  rintro _ ⟨⟩
  exact h

section Access

variable {s : State} {c : CoreId} {v : VoiceId} (hs : s.Inv)
include hs

theorem registerAccess_inv {rd : State → Half} {wr : Half → State → State} (hwrite : ∀ d, (wr d s).Inv) (a : Access) :
    LeadsToInv (registerAccess rd wr a s) := by
  cases a with
  | read => exact leadsToInv_next (emit_inv hs _)
  | write d => exact leadsToInv_next (hwrite d)

theorem readOnlyAccess_inv {rd : State → Half} (a : Access) : LeadsToInv (readOnlyAccess rd a s) :=
  registerAccess_inv hs (fun _ => hs) a

theorem coreAccess_inv {rd : Core → Half} {wr : Half → Core → Core} (a : Access)
    (hwrite : ∀ d k, k.Ok s.cfg.envFracBits.val c → (wr d k).Ok s.cfg.envFracBits.val c)
    (hpos : ∀ d k, (wr d k).outPos = k.outPos) : LeadsToInv (coreAccess c rd wr a s) :=
  registerAccess_inv hs (fun d => updCore_inv hs c (hwrite d _ (hs.engine.core c)) (hpos d _)) a

/-- A register of a core that stores to fields the invariant does not speak of. -/
theorem coreStorage_inv {rd : Core → Half} {wr : Half → Core → Core} (a : Access)
    (hsame : ∀ d k, (wr d k).checked = k.checked) : LeadsToInv (coreAccess c rd wr a s) :=
  coreAccess_inv hs a (fun d k hk => coreOk_of_checked hk (hsame d k)) fun d k =>
    congrArg (fun x => x.2.2.2.2.2.2) (hsame d k)

theorem coreMaskLow_inv {rd : Core → VoiceMask} {wr : VoiceMask → Core → Core} (a : Access)
    (hsame : ∀ m k, (wr m k).checked = k.checked) : LeadsToInv (coreMaskLow c rd wr a s) :=
  coreStorage_inv hs a fun _ _ => hsame _ _

theorem coreMaskHigh_inv {rd : Core → VoiceMask} {wr : VoiceMask → Core → Core} (a : Access)
    (hsame : ∀ m k, (wr m k).checked = k.checked) : LeadsToInv (coreMaskHigh c rd wr a s) :=
  coreStorage_inv hs a fun _ _ => hsame _ _

theorem coreAddrLow_inv {rd : Core → RamAddr} {wr : RamAddr → Core → Core} (a : Access)
    (hsame : ∀ x k, (wr x k).checked = k.checked) : LeadsToInv (coreAddrLow c rd wr a s) :=
  coreStorage_inv hs a fun _ _ => hsame _ _

theorem coreAddrHigh_inv {rd : Core → RamAddr} {wr : RamAddr → Core → Core} (a : Access)
    (hsame : ∀ x k, (wr x k).checked = k.checked) : LeadsToInv (coreAddrHigh c rd wr a s) :=
  coreStorage_inv hs a fun _ _ => hsame _ _

theorem offsetLow_inv (o : RvbOffset) (i : Side) (a : Access) : LeadsToInv (offsetLow c o i a s) :=
  coreAddrLow_inv hs a fun _ _ => rfl

theorem offsetHigh_inv (o : RvbOffset) (i : Side) (a : Access) : LeadsToInv (offsetHigh c o i a s) :=
  coreAddrHigh_inv hs a fun _ _ => rfl

theorem coefAccess_inv (n : RvbCoef) (a : Access) : LeadsToInv (coefAccess c n a s) :=
  coreStorage_inv hs a fun _ _ => rfl

theorem voiceAccess_inv {rd : Voice → Half} {wr : Half → Voice → Voice} (a : Access)
    (hwrite : ∀ d w, w.Ok s.cfg.envFracBits.val → (wr d w).Ok s.cfg.envFracBits.val) :
    LeadsToInv (voiceAccess c v rd wr a s) :=
  registerAccess_inv hs
    (fun d => updCore_inv hs c (coreOk_updVoice (hs.engine.core c) v (hwrite d _ ((hs.engine.core c).voices v))) rfl) a

theorem execAdmas_inv (a : Access) : LeadsToInv (execAdmas c a s) := by
  refine coreAccess_inv hs a (fun d k hk => ?_) fun _ _ => rfl
  refine ⟨hk.voices, hk.mvolL, hk.mvolR, hk.dma_words, hk.dma_count, fun hgate => ?_, ?_, hk.timer_nonneg⟩
  · have hclear : (admasGate c).isSet d = false := hgate
    simp [admaAfterWrite, hclear]
  · show (admaAfterWrite c d k.adma).pending = true → (admaAfterWrite c d k.adma).left ≠ 0
    unfold admaAfterWrite
    split
    · exact hk.adma_pending
    · simp

theorem execUnmapped_inv (ra : Half) (a : Access) : LeadsToInv (execUnmapped ra a s) := by
  have hrecord (w : Bool) : (recordUnmapped ra w s).Inv := ⟨hs.engine, hs.runAcc_lt, hs.badPhase⟩
  unfold execUnmapped
  cases s.cfg.build with
  | debug => rintro _ ⟨⟩
  | release =>
    cases a with
    | read => exact leadsToInv_next (emit_inv (hrecord false) _)
    | write d => exact leadsToInv_next (hrecord true)

/-- Every operation keeps the invariant, sorted by what its register stores to. -/
theorem exec_inv (i : Instr) : LeadsToInv (exec i s) := by
  unfold exec
  cases i with
  | voll c v a =>
    exact voiceAccess_inv hs a fun d w hw => ⟨hw.env, (writeVolume_frac_le d _).trans_lt hw.volL, hw.volR, hw.buf_le⟩
  | volr c v a =>
    exact voiceAccess_inv hs a fun d w hw => ⟨hw.env, hw.volL, (writeVolume_frac_le d _).trans_lt hw.volR, hw.buf_le⟩
  | pitch | adsr1 | adsr2 | ssaH | ssaL | lsaH | lsaL =>
    exact voiceAccess_inv hs _ fun _ _ hw => ⟨hw.env, hw.volL, hw.volR, hw.buf_le⟩
  | envx | volxl | volxr | naxH | naxL | statx | mvolxl | mvolxr | irqstat => exact readOnlyAccess_inv hs _
  | pmonL | nonL | vmixlL | vmixelL | vmixrL | vmixerL => exact coreMaskLow_inv hs _ fun _ _ => by rfl
  | pmonH | nonH | vmixlH | vmixelH | vmixrH | vmixerH => exact coreMaskHigh_inv hs _ fun _ _ => by rfl
  | irqaL | esaL | eeaL => exact coreAddrLow_inv hs _ fun _ _ => by rfl
  | irqaH | esaH | eeaH => exact coreAddrHigh_inv hs _ fun _ _ => by rfl
  | dAPF0_L | dAPF1_L | mSAME0_L | mSAME1_L | mCOMB1_0_L | mCOMB1_1_L | mCOMB2_0_L | mCOMB2_1_L | dSAME0_L
      | dSAME1_L | mDIFF0_L | mDIFF1_L | mCOMB3_0_L | mCOMB3_1_L | mCOMB4_0_L | mCOMB4_1_L | dDIFF0_L | dDIFF1_L
      | mAPF1_0_L | mAPF1_1_L | mAPF2_0_L | mAPF2_1_L => exact offsetLow_inv hs _ _ _
  | dAPF0_H | dAPF1_H | mSAME0_H | mSAME1_H | mCOMB1_0_H | mCOMB1_1_H | mCOMB2_0_H | mCOMB2_1_H | dSAME0_H
      | dSAME1_H | mDIFF0_H | mDIFF1_H | mCOMB3_0_H | mCOMB3_1_H | mCOMB4_0_H | mCOMB4_1_H | dDIFF0_H | dDIFF1_H
      | mAPF1_0_H | mAPF1_1_H | mAPF2_0_H | mAPF2_1_H => exact offsetHigh_inv hs _ _ _
  | vIIR | vCOMB1 | vCOMB2 | vCOMB3 | vCOMB4 | vWALL | vAPF1 | vAPF2 | vIN0 | vIN1 => exact coefAccess_inv hs _ _
  | mmix | konL | konH | koffL | koffH | tsaH | tsaL | endxL | endxH | evoll | evolr | avoll | avolr | bvoll | bvolr =>
    exact coreStorage_inv hs _ fun _ _ => by rfl
  | mvoll c a =>
    exact coreAccess_inv hs a (fun d k hk => coreOk_setMvol hk ((writeVolume_frac_le d _).trans_lt hk.mvolL) hk.mvolR)
      fun _ _ => by rfl
  | mvolr c a =>
    exact coreAccess_inv hs a (fun d k hk => coreOk_setMvol hk hk.mvolL ((writeVolume_frac_le d _).trans_lt hk.mvolR))
      fun _ _ => by rfl
  | admas c a => exact execAdmas_inv hs a
  | attr c a => exact registerAccess_inv hs (writeAttr_inv hs c) a
  | spdifOut a | spdifMode a | spdifMedia a =>
    exact registerAccess_inv hs (fun _ => ⟨hs.engine, hs.runAcc_lt, hs.badPhase⟩) a
  | unmapped ra a => exact execUnmapped_inv hs ra a
  | run n => exact leadsToInv_next (runCycles_inv hs n.toNat)
  | runDma c n => exact leadsToInv_next (hs.withEngine (runDma_ok _ _ c _ hs.engine))
  | dmaWr c n => exact leadsToInv_next (hs.withEngine (startWrite_ok _ _ c (Nat.le_of_lt_succ n.isLt) _ hs.engine))
  | dmaRd c n => exact leadsToInv_next (hs.withEngine (startRead_ok _ _ c (Nat.le_of_lt_succ n.isLt) hs.engine))
  | reset => exact leadsToInv_next (resetBlock_inv hs)

end Access

/-- Settles O60: a step performs one operation on the accepted state, and every operation keeps the invariant. -/
theorem stepKeepsTheInvariant : Obligations.StepKeepsTheInvariant := by
  intro s t hs hstep
  cases hpending : s.pending with
  | nil =>
    simp only [step, hpending] at hstep
    cases hstep
    exact hs
  | cons x rest =>
    cases hdecode : decode x.word with
    | error e => simp [step, hpending, hdecode] at hstep
    | ok i =>
      rw [step_of_decode hpending hdecode] at hstep
      exact exec_inv (accept_inv hs x rest) i t hstep

end Sys2Proof.Machine

/-! # What a tick outputs and what it leaves in RAM

The mixer's half of a tick (45_mixer steps 10 to 15), read off the core that the tick leaves: its mixes in closed form, and the captures of steps 1 and 14 as the only stores beside the reverb's. -/

namespace Sys2Proof.Machine

/-! ## The capture and input areas (20_memory R76) -/

/-- The place of a capture area in the map of its core (20_memory R76). -/
def captureIndex : CaptureArea → Nat
  | .sinL => 0
  | .sinR => 1
  | .voice1 => 2
  | .voice3 => 3
  | .dryL => 4
  | .dryR => 5
  | .wetL => 6
  | .wetR => 7

theorem captureOffset_eq (area : CaptureArea) : captureOffset area = captureIndex area * 0x200 := by
  cases area <;> rfl

theorem captureAddr_eq (c : CoreId) (area : CaptureArea) (p : BitVec 9) :
    captureAddr c area p = BitVec.ofNat 20 (c.num * 0x1000 + captureIndex area * 0x200 + p.toNat) := by
  rw [captureAddr, captureOffset_eq]

theorem captureAddr_toNat_lt (c : CoreId) (area : CaptureArea) (p : BitVec 9) :
    (captureAddr c area p).toNat < 0x2000 := by
  have hp := p.isLt
  have hc : c.num ≤ 1 := by cases c <;> decide
  have harea : captureIndex area ≤ 7 := by cases area <;> decide
  rw [captureAddr_eq, BitVec.toNat_ofNat, Nat.mod_eq_of_lt (by omega)]
  omega

theorem inputAddr_toNat_ge (c : CoreId) (ch : Side) (p : BitVec 9) : 0x2000 ≤ (inputAddr c ch p).toNat := by
  have hp := p.isLt
  have hc : c.num ≤ 1 := by cases c <;> decide
  have hch : ch.num ≤ 1 := by cases ch <;> decide
  rw [inputAddr, BitVec.toNat_ofNat, Nat.mod_eq_of_lt (by omega)]
  omega

theorem inputAddr_ne_captureAddr (c c' : CoreId) (ch : Side) (area : CaptureArea) (p q : BitVec 9) :
    inputAddr c ch p ≠ captureAddr c' area q := fun h =>
  absurd (h ▸ inputAddr_toNat_ge c ch p) (captureAddr_toNat_lt c' area q).not_ge

/-- The memory-in of a tick: the captures of step 1 leave the input areas. -/
theorem readMemins_voiceSteps (cfg : Config) (c : CoreId) (sin : Frame) (e : Engine) (ch : Side) :
    (readMemins cfg c (voiceSteps cfg c sin e)).2.get ch = ramRead e.ram (inputAddr c ch (e.core c).outPos) := by
  have hword : ramRead (voiceSteps cfg c sin e).ram (inputAddr c ch (e.core c).outPos) =
      ramRead e.ram (inputAddr c ch (e.core c).outPos) := by
    rw [voiceSteps_ram, captureSin, capWrite_ram_other _ _ _ _ _ (inputAddr_ne_captureAddr _ _ _ _ _ _),
      capWrite_ram_other _ _ _ _ _ (inputAddr_ne_captureAddr _ _ _ _ _ _)]
  cases ch <;> simpa [readMemins, readMemin, Pair.get, (voiceSteps_voicePart cfg c sin e).outPos] using hword

/-! ## The mixes in closed form (45_mixer R374, R377) -/

/-- What a bit of `MMIX` lets through (30_encoding R121). -/
def Core.gate (k : Core) (bit : Nat) (x : Half) : Half := if k.mmix.getLsbD bit = true then x else 0

theorem core_route_bit (k : Core) (bit : Nat) (x : Half) : k.route ⟨bit, bit⟩ x = k.gate bit x := by
  rw [Core.route, isSet_bit]
  rfl

/-- The voices of the dry bus of a side. -/
def Core.dryMask (k : Core) : Side → VoiceMask
  | .left => k.vmixl
  | .right => k.vmixr

/-- The voices of the wet bus of a side. -/
def Core.wetMask (k : Core) : Side → VoiceMask
  | .left => k.vmixel
  | .right => k.vmixer

theorem wetInput_get (k : Core) (sin memin : Frame) (ch : Side) :
    (wetInput k sin memin).get ch =
      plus (plus (k.gate (9 - ch.num) (busOf k (k.wetMask ch) ch))
          (k.gate (1 - ch.num) (times (sin.get ch) (k.avol.get ch))))
        (k.gate (5 - ch.num) (times (memin.get ch) (k.bvol.get ch))) := by
  simp only [← core_route_bit, ← scale_eq, ← satAdd_eq, ← voiceBus_eq]
  cases ch <;> rfl

theorem dryMix_get (k : Core) (sin memin : Frame) (ch : Side) :
    (dryMix k sin memin).get ch =
      plus (plus (k.gate (11 - ch.num) (busOf k (k.dryMask ch) ch))
          (k.gate (3 - ch.num) (times (sin.get ch) (k.avol.get ch))))
        (k.gate (7 - ch.num) (times (memin.get ch) (k.bvol.get ch))) := by
  simp only [← core_route_bit, ← scale_eq, ← satAdd_eq, ← voiceBus_eq]
  cases ch <;> rfl

/-! ## The mixing half of a tick, from the core the tick leaves -/

/-- Step 12 of a tick: the reverb on the tick's wet input (45_mixer R374, R375). -/
def tickReverb (cfg : Config) (c : CoreId) (sin : Frame) (e : Engine) : Engine × Frame :=
  reverb cfg c (wetInput ((tick cfg c sin e).1.core c) sin (readMemins cfg c (voiceSteps cfg c sin e)).2)
    (readMemins cfg c (voiceSteps cfg c sin e)).1

/-- The wet input reads of the core only what steps 10 to 15 keep. -/
theorem tickReverb_eq (cfg : Config) (c : CoreId) (sin : Frame) (e : Engine) :
    tickReverb cfg c sin e =
      reverb cfg c (wetInput ((voiceSteps cfg c sin e).core c) sin (readMemins cfg c (voiceSteps cfg c sin e)).2)
        (readMemins cfg c (voiceSteps cfg c sin e)).1 := by
  obtain ⟨w, m, hcore⟩ := tick_core cfg c sin e
  rw [tickReverb, hcore]
  rfl

theorem beforePosition_voiceSteps (cfg : Config) (c : CoreId) (sin : Frame) (e : Engine) :
    beforePosition cfg c sin (voiceSteps cfg c sin e) =
      captureOuts cfg c ((voiceSteps cfg c sin e).core c) (tickReverb cfg c sin e).1 := by
  rw [tickReverb_eq]
  rfl

theorem tickReverb_core (cfg : Config) (c : CoreId) (sin : Frame) (e : Engine) :
    ∃ w, (tickReverb cfg c sin e).1.core c = { (voiceSteps cfg c sin e).core c with rvb := w } := by
  obtain ⟨w, hcore⟩ := beforePosition_core cfg c sin (voiceSteps cfg c sin e)
  rw [beforePosition_voiceSteps, captureOuts_core] at hcore
  exact ⟨w, hcore⟩

theorem tickReverb_outPos (cfg : Config) (c : CoreId) (sin : Frame) (e : Engine) :
    ((tickReverb cfg c sin e).1.core c).outPos = (e.core c).outPos := by
  obtain ⟨w, hcore⟩ := tickReverb_core cfg c sin e
  rw [hcore]
  exact (voiceSteps_voicePart cfg c sin e).outPos

/-- After the captures of step 14 a tick leaves RAM, record and cause bits alone. -/
theorem tick_afterCaptures (cfg : Config) (c : CoreId) (sin : Frame) (e : Engine) :
    let e' := captureOuts cfg c ((voiceSteps cfg c sin e).core c) (tickReverb cfg c sin e).1
    (tick cfg c sin e).1.ram = e'.ram ∧ (tick cfg c sin e).1.log = e'.log ∧
      (∀ c', (tick cfg c sin e).1.irqstat.cause c' = e'.irqstat.cause c') ∧
      ∃ m, (tick cfg c sin e).1.core c =
        Core.endTick cfg { e'.core c with outPos := (e'.core c).outPos + 1, adma := m } := by
  intro e'
  obtain ⟨⟨m, hcore⟩, -, hram, hlog, hcause⟩ := advancePosition_spec c e'
  have htick : (tick cfg c sin e).1 = (advancePosition c e').updCore c (Core.endTick cfg) := by
    rw [tick_engine, beforePosition_voiceSteps]
  rw [htick]
  exact ⟨by simpa using hram, by simpa using hlog, by simpa using hcause, m, by simp [hcore]⟩

/-- Step 15 and the position leave the reverb's working state, `ATTR` and `IRQA`. -/
theorem tick_core_tickReverb (cfg : Config) (c : CoreId) (sin : Frame) (e : Engine) :
    let k := (tick cfg c sin e).1.core c
    let k' := (tickReverb cfg c sin e).1.core c
    k.rvb = k'.rvb ∧ k.attr = k'.attr ∧ k.irqa = k'.irqa := by
  obtain ⟨-, -, -, m, hcore⟩ := tick_afterCaptures cfg c sin e
  rw [captureOuts_core] at hcore
  rw [hcore]
  exact ⟨rfl, rfl, rfl⟩

/-- One side of the output: the dry mix and the reverb's return, under the swept master level (45_mixer R376, R377, R382). -/
theorem tick_output (cfg : Config) (c : CoreId) (sin : Frame) (e : Engine) (ch : Side) :
    let k := (tick cfg c sin e).1.core c
    (tick cfg c sin e).2.get ch =
      times (plus ((dryMix k sin (readMemins cfg c (voiceSteps cfg c sin e)).2).get ch)
        (times ((tickReverb cfg c sin e).2.get ch) (k.evol.get ch))) (k.mvol.get ch).level := by
  have hout : (tick cfg c sin e).2 =
      scaleFrame (finalMix ((voiceSteps cfg c sin e).core c) sin (readMemins cfg c (voiceSteps cfg c sin e)).2
        (tickReverb cfg c sin e).2) ((tick cfg c sin e).1.core c).masterLevel := by
    rw [tickReverb_eq]
    rfl
  obtain ⟨w, m, hcore⟩ := tick_core cfg c sin e
  rw [hout, hcore]
  cases ch <;> rfl

/-! ## The captures of step 14 (45_mixer R379) -/

/-- The areas of step 14 are those from the third on. -/
def outAreas : List CaptureArea := [.voice1, .voice3, .dryL, .dryR, .wetL, .wetR]

theorem outAreas_num : ∀ area ∈ outAreas, 2 ≤ captureIndex area ∧ captureIndex area < 8 := by decide

/-- A word that step 14 does not capture to is as the reverb leaves it. -/
theorem tick_ram_other (cfg : Config) (c : CoreId) (sin : Frame) (e : Engine) {a : RamAddr}
    (h : ∀ area ∈ outAreas, a ≠ captureAddr c area (e.core c).outPos) :
    ramRead (tick cfg c sin e).1.ram a = ramRead (tickReverb cfg c sin e).1.ram a := by
  rw [(tick_afterCaptures cfg c sin e).1]
  refine captureOuts_ram_other _ _ _ _ fun area harea => ?_
  rw [tickReverb_outPos]
  exact h area harea

/-- The enabled areas of step 14 whose word lies at the interrupt address that the tick leaves, where they are compared with it. -/
def outHits (cfg : Config) (c : CoreId) (p : BitVec 9) (k : Core) : Nat :=
  if cfg.irqSources.capture = true ∧ k.attr.getLsbD 6 = true
  then outAreas.countP fun area => cfg.captureSet.has area && captureAddr c area p == k.irqa
  else 0

/-- The signals of step 14, the last of a tick (60_exceptions R443). -/
theorem tick_signals (cfg : Config) (c : CoreId) (sin : Frame) (e : Engine) :
    let hits := outHits cfg c (e.core c).outPos ((tick cfg c sin e).1.core c)
    (tick cfg c sin e).1.log = List.replicate hits (.irq c) ++ (tickReverb cfg c sin e).1.log ∧
      ∀ c', (tick cfg c sin e).1.irqstat.cause c' = true ↔
        (tickReverb cfg c sin e).1.irqstat.cause c' = true ∨ c' = c ∧ 0 < hits := by
  obtain ⟨-, hattr, hirqa⟩ := tick_core_tickReverb cfg c sin e
  obtain ⟨-, hlog, hcause, -⟩ := tick_afterCaptures cfg c sin e
  have hsignals := signals_captureOuts cfg c ((voiceSteps cfg c sin e).core c) (tickReverb cfg c sin e).1
  rw [countP_captureHit, tickReverb_outPos, ← hattr, ← hirqa] at hsignals
  exact ⟨hlog.trans hsignals.log, fun c' => by rw [hcause]; exact hsignals.cause c'⟩

/-! ## Silence (45_mixer R382) -/

theorem times_zero (x : Half) : times x 0 = 0 := by simp [times, saturate]

/-- A unit at its reset value holds no sweep. -/
theorem volTick_zero (fracBits : Nat) : volTick fracBits ⟨0, 0, 0⟩ = ⟨0, 0, 0⟩ := by
  have h : ¬ volSweep.isSet 0 = true := by decide
  exact if_neg h

theorem tick_mvol (cfg : Config) (c : CoreId) (sin : Frame) (e : Engine) :
    ((tick cfg c sin e).1.core c).mvol =
      ⟨volTick cfg.envFracBits.val (e.core c).mvol.left, volTick cfg.envFracBits.val (e.core c).mvol.right⟩ := by
  obtain ⟨w, m, hcore⟩ := tick_core cfg c sin e
  rw [hcore, ← (voiceSteps_voicePart cfg c sin e).mvol]
  rfl

theorem tick_silent {cfg : Config} {c : CoreId} (sin : Frame) {e : Engine}
    (h : (e.core c).mvol = ⟨⟨0, 0, 0⟩, ⟨0, 0, 0⟩⟩) : (tick cfg c sin e).2 = ⟨0, 0⟩ := by
  have hmvol : ((tick cfg c sin e).1.core c).mvol = ⟨⟨0, 0, 0⟩, ⟨0, 0, 0⟩⟩ := by rw [tick_mvol, h, volTick_zero]
  have hside (ch : Side) : (tick cfg c sin e).2.get ch = 0 := by
    rw [tick_output, hmvol]
    cases ch <;> exact times_zero _
  exact congrArg₂ Pair.mk (hside .left) (hside .right)

/-- Settles O49: the output from `tick_output`, the stores and signals of step 14 from `tick_ram_other` and `tick_signals`. -/
theorem masterVolumeAtResetIsSilence : Obligations.MasterVolumeAtResetIsSilence := by
  refine ⟨fun cfg c sin e => ?_, fun cfg c sin e => tick_silent sin⟩
  intro t k gate sound memory dryMask wetMask wet dry r addr s hits
  have hmemory (ch : Side) :
      times ((readMemins cfg c (voiceSteps cfg c sin e)).2.get ch) (k.bvol.get ch) = memory ch := by
    rw [readMemins_voiceSteps]
    rfl
  have hwet (ch : Side) :
      (wetInput k sin (readMemins cfg c (voiceSteps cfg c sin e)).2).get ch = wet ch := by
    rw [wetInput_get, hmemory]
    cases ch <;> rfl
  have hdry (ch : Side) :
      (dryMix k sin (readMemins cfg c (voiceSteps cfg c sin e)).2).get ch = dry ch := by
    rw [dryMix_get, hmemory]
    cases ch <;> rfl
  have hr : r = tickReverb cfg c sin e := by
    have hinput : wetInput k sin (readMemins cfg c (voiceSteps cfg c sin e)).2 = ⟨wet .left, wet .right⟩ :=
      congrArg₂ Pair.mk (hwet .left) (hwet .right)
    rw [tickReverb, hinput]
  have hhits : hits = outHits cfg c (e.core c).outPos k := by
    simp only [outHits, captureAddr_eq]
    rfl
  rw [hr, hhits]
  refine ⟨fun ch => ?_, (tick_core_tickReverb cfg c sin e).1, fun a ha => ?_, tick_signals cfg c sin e⟩
  · rw [← hdry]
    exact tick_output cfg c sin e ch
  · refine tick_ram_other cfg c sin e fun area harea => ?_
    obtain ⟨hge, hlt⟩ := outAreas_num area harea
    rw [captureAddr_eq]
    exact ha (captureIndex area) hge hlt

/-! ## The words a tick captures (45_mixer R365, R379) -/

/-- The captures of step 1: each area that is written holds its side of the sound-in. -/
theorem captureSin_ram (cfg : Config) (c : CoreId) (sin : Frame) (e : Engine) :
    (cfg.captureSet.sinL = true →
      ramRead (captureSin cfg c sin e).ram (captureAddr c .sinL (e.core c).outPos) = sin.left) ∧
    (cfg.captureSet.sinR = true →
      ramRead (captureSin cfg c sin e).ram (captureAddr c .sinR (e.core c).outPos) = sin.right) := by
  have hpos : ((capWrite cfg c .sinL sin.left e).core c).outPos = (e.core c).outPos := by rw [capWrite_core]
  refine ⟨fun h => ?_, fun h => ?_⟩
  · have hne := captureAddr_ne c (e.core c).outPos (x := .sinL) (y := .sinR) (by decide)
    rw [captureSin, capWrite_ram_other _ _ _ _ _ (by rwa [hpos])]
    exact capWrite_ram_same c sin.left e h
  · rw [captureSin, ← hpos]
    exact capWrite_ram_same c sin.right _ h

/-- A word outside the reverb's work area is, when the reverb has run, as step 1 left it. -/
theorem tickReverb_ram (cfg : Config) (c : CoreId) (sin : Frame) (e : Engine) {a : RamAddr}
    (h : ¬ (e.core c).reverbMayWrite a.toNat) :
    ramRead (tickReverb cfg c sin e).1.ram a = ramRead (captureSin cfg c sin e).ram a := by
  have hmay : ¬ ((readMemins cfg c (voiceSteps cfg c sin e)).1.core c).reverbMayWrite a.toNat := by
    rwa [readMemins_core, reverbMayWrite_of_settings (voiceSteps_voicePart cfg c sin e).settings]
  have hmemins : (readMemins cfg c (voiceSteps cfg c sin e)).1.ram = (captureSin cfg c sin e).ram := by
    simp [readMemins, readMemin, voiceSteps_ram]
  rw [← hmemins]
  exact ramRead_congr a fun b hb => reverb_bytes _ _ _ _ (by rwa [hb])

theorem dryBus_eq (k : Core) : dryBus k = ⟨busOf k k.vmixl .left, busOf k k.vmixr .right⟩ := by
  simp only [dryBus, voiceBus_eq]

theorem wetBus_eq (k : Core) : wetBus k = ⟨busOf k k.vmixel .left, busOf k k.vmixer .right⟩ := by
  simp only [wetBus, voiceBus_eq]

/-- Steps 10 to 15 keep the voices and the masks that the captures of step 14 read. -/
theorem tick_captured (cfg : Config) (c : CoreId) (sin : Frame) (e : Engine) :
    let k := (tick cfg c sin e).1.core c
    let k' := (voiceSteps cfg c sin e).core c
    (∀ v, k'.voice v = k.voice v) ∧ dryBus k' = dryBus k ∧ wetBus k' = wetBus k := by
  obtain ⟨w, m, hcore⟩ := tick_core cfg c sin e
  rw [hcore]
  exact ⟨fun _ => rfl, rfl, rfl⟩

/-- Settles O47: the bytes that stay from the frame of `RUN`, the captured words from those of steps 1 and 14. -/
theorem runStoresOnlyCapturesAndReverb : Obligations.RunStoresOnlyCapturesAndReverb := by
  refine ⟨fun n s => ⟨runCycles n.toNat s, rfl, fun b hb => ?_⟩, fun cfg c sin e => ?_⟩
  · obtain ⟨hframe, -⟩ :=
      runTicks_spec ((s.runAcc + n.toNat) / s.cfg.tickCycles.val) { s with runAcc := s.runAcc + n.toNat }
    exact hframe.bytes b hb
  · intro t k addr
    have haddr (area : CaptureArea) : captureAddr c area (e.core c).outPos = addr (captureIndex area) :=
      captureAddr_eq ..
    obtain ⟨hvoice, hdry, hwet⟩ := tick_captured cfg c sin e
    obtain ⟨hsinL, hsinR⟩ := captureSin_ram cfg c sin e
    obtain ⟨hvoice1, hvoice3, hdryL, hdryR, hwetL, hwetR, hsin⟩ :=
      captureOuts_ram cfg c ((voiceSteps cfg c sin e).core c) (tickReverb cfg c sin e).1
    have hram := (tick_afterCaptures cfg c sin e).1
    simp only [tickReverb_outPos, ← hram, haddr, hvoice, hdry, hwet, dryBus_eq,
      wetBus_eq] at hsinL hsinR hsin hvoice1 hvoice3 hdryL hdryR hwetL hwetR
    refine ⟨fun h hmay => ?_, fun h hmay => ?_, hvoice1, hvoice3, hdryL, hdryR, hwetL, hwetR⟩
    · exact (hsin .sinL (.inl rfl)).trans ((tickReverb_ram cfg c sin e hmay).trans (hsinL h))
    · exact (hsin .sinR (.inr rfl)).trans ((tickReverb_ram cfg c sin e hmay).trans (hsinR h))

end Sys2Proof.Machine

/-! # Register writes are idempotent (20_memory R79)

What `decodeRegister` answers is a register operation with the access it was given; each register's write, repeated, leaves the state it finds, but for `KON` and `KOFF`, which accumulate. -/

namespace Sys2Proof.Machine

/-! ## The access of a decoded register operation -/

/-- The access of a register operation; the other operations have none. -/
def accessOf : Instr → Option Access
  | .run _ | .runDma _ _ | .dmaWr _ _ | .dmaRd _ _ | .reset => none
  | .spdifOut a | .irqstat a | .spdifMode a | .spdifMedia a | .unmapped _ a => some a
  | .voll _ _ a | .volr _ _ a | .pitch _ _ a | .adsr1 _ _ a | .adsr2 _ _ a | .envx _ _ a | .volxl _ _ a
  | .volxr _ _ a | .ssaH _ _ a | .ssaL _ _ a | .lsaH _ _ a | .lsaL _ _ a | .naxH _ _ a | .naxL _ _ a => some a
  | .pmonL _ a | .pmonH _ a | .nonL _ a | .nonH _ a | .vmixlL _ a | .vmixlH _ a | .vmixelL _ a | .vmixelH _ a
  | .vmixrL _ a | .vmixrH _ a | .vmixerL _ a | .vmixerH _ a | .mmix _ a | .attr _ a | .irqaH _ a | .irqaL _ a
  | .konL _ a | .konH _ a | .koffL _ a | .koffH _ a | .tsaH _ a | .tsaL _ a | .admas _ a
  | .esaH _ a | .esaL _ a | .eeaH _ a | .eeaL _ a | .endxL _ a | .endxH _ a | .statx _ a
  | .dAPF0_H _ a | .dAPF0_L _ a | .dAPF1_H _ a | .dAPF1_L _ a | .mSAME0_H _ a | .mSAME0_L _ a | .mSAME1_H _ a
  | .mSAME1_L _ a | .mCOMB1_0_H _ a | .mCOMB1_0_L _ a | .mCOMB1_1_H _ a | .mCOMB1_1_L _ a | .mCOMB2_0_H _ a
  | .mCOMB2_0_L _ a | .mCOMB2_1_H _ a | .mCOMB2_1_L _ a | .dSAME0_H _ a | .dSAME0_L _ a | .dSAME1_H _ a
  | .dSAME1_L _ a | .mDIFF0_H _ a | .mDIFF0_L _ a | .mDIFF1_H _ a | .mDIFF1_L _ a | .mCOMB3_0_H _ a
  | .mCOMB3_0_L _ a | .mCOMB3_1_H _ a | .mCOMB3_1_L _ a | .mCOMB4_0_H _ a | .mCOMB4_0_L _ a | .mCOMB4_1_H _ a
  | .mCOMB4_1_L _ a | .dDIFF0_H _ a | .dDIFF0_L _ a | .dDIFF1_H _ a | .dDIFF1_L _ a | .mAPF1_0_H _ a
  | .mAPF1_0_L _ a | .mAPF1_1_H _ a | .mAPF1_1_L _ a | .mAPF2_0_H _ a | .mAPF2_0_L _ a | .mAPF2_1_H _ a
  | .mAPF2_1_L _ a | .mvoll _ a | .mvolr _ a | .evoll _ a | .evolr _ a | .avoll _ a | .avolr _ a | .bvoll _ a
  | .bvolr _ a | .mvolxl _ a | .mvolxr _ a | .vIIR _ a | .vCOMB1 _ a | .vCOMB2 _ a | .vCOMB3 _ a | .vCOMB4 _ a
  | .vWALL _ a | .vAPF1 _ a | .vAPF2 _ a | .vIN0 _ a | .vIN1 _ a => some a

theorem mem_of_rowAt {α : Type} {rows : List (Nat × α)} {off : Nat} {x : α} (h : rowAt rows off = some x) :
    (off, x) ∈ rows := by
  induction rows with
  | nil => cases h
  | cons row rows ih =>
    obtain ⟨k, y⟩ := row
    unfold rowAt at h
    split at h
    · next hk => cases h; subst hk; exact List.mem_cons_self
    · exact List.mem_cons_of_mem _ (ih h)

/-- A table whose every row makes operations with access `acc` answers such an operation. -/
theorem accessOf_of_rowAt {α : Type} {rows : List (Nat × α)} {make : α → Instr} {acc : Access}
    (hrows : ∀ row ∈ rows, accessOf (make row.2) = some acc) {off : Nat} {i : Instr}
    (h : (rowAt rows off).map make = some i) : accessOf i = some acc := by
  obtain ⟨x, hx, rfl⟩ := Option.map_eq_some_iff.1 h
  exact hrows _ (mem_of_rowAt hx)

/-! Every row of the register map makes operations with the access it is given. -/

theorem accessOf_voiceParamRows (c : CoreId) (v : VoiceId) (acc : Access) :
    ∀ row ∈ voiceParamRows, accessOf (row.2 c v acc) = some acc := by
  simp only [voiceParamRows, List.forall_mem_cons, List.not_mem_nil, false_implies, implies_true, and_true]
  and_intros <;> rfl

theorem accessOf_voiceAddressRows (c : CoreId) (v : VoiceId) (acc : Access) :
    ∀ row ∈ voiceAddressRows, accessOf (row.2 c v acc) = some acc := by
  simp only [voiceAddressRows, List.forall_mem_cons, List.not_mem_nil, false_implies, implies_true, and_true]
  and_intros <;> rfl

theorem accessOf_coreRows (c : CoreId) (acc : Access) :
    ∀ row ∈ coreRows, accessOf (row.2 c acc) = some acc := by
  simp only [coreRows, List.forall_mem_cons, List.not_mem_nil, false_implies, implies_true, and_true]
  and_intros <;> rfl

theorem accessOf_coreRows2 (c : CoreId) (acc : Access) :
    ∀ row ∈ coreRows2, accessOf (row.2 c acc) = some acc := by
  simp only [coreRows2, List.forall_mem_cons, List.not_mem_nil, false_implies, implies_true, and_true]
  and_intros <;> rfl

theorem accessOf_reverbOffsetRows (c : CoreId) (acc : Access) :
    ∀ row ∈ reverbOffsetRows, accessOf (row.2 c acc) = some acc := by
  simp only [reverbOffsetRows, List.forall_mem_cons, List.not_mem_nil, false_implies, implies_true, and_true]
  and_intros <;> rfl

theorem accessOf_volumeRows (c : CoreId) (acc : Access) :
    ∀ row ∈ volumeRows, accessOf (row.2 c acc) = some acc := by
  simp only [volumeRows, List.forall_mem_cons, List.not_mem_nil, false_implies, implies_true, and_true]
  and_intros <;> rfl

theorem accessOf_sharedRows (acc : Access) :
    ∀ row ∈ sharedRows, accessOf (row.2 acc) = some acc := by
  simp only [sharedRows, List.forall_mem_cons, List.not_mem_nil, false_implies, implies_true, and_true]
  and_intros <;> rfl

theorem accessOf_coreRegisterAt {c : CoreId} {off : Nat} {acc : Access} {i : Instr}
    (h : coreRegisterAt c off acc = some i) : accessOf i = some acc := by
  unfold coreRegisterAt at h
  split at h
  · exact accessOf_of_rowAt (accessOf_voiceParamRows c _ acc) h
  split at h
  · exact accessOf_of_rowAt (accessOf_coreRows c acc) h
  split at h
  · exact accessOf_of_rowAt (accessOf_voiceAddressRows c _ acc) h
  split at h
  · exact accessOf_of_rowAt (accessOf_reverbOffsetRows c acc) h
  · exact accessOf_of_rowAt (accessOf_coreRows2 c acc) h

theorem accessOf_registerAt {r : Nat} {acc : Access} {i : Instr} (h : registerAt r acc = some i) :
    accessOf i = some acc := by
  unfold registerAt at h
  split at h
  · exact accessOf_coreRegisterAt h
  split at h
  · exact accessOf_of_rowAt (accessOf_volumeRows .core0 acc) h
  split at h
  · exact accessOf_of_rowAt (accessOf_volumeRows .core1 acc) h
  · exact accessOf_of_rowAt (accessOf_sharedRows acc) h

/-- The decoder hands the access on, also to an address that holds no register (30_encoding R102). -/
theorem accessOf_decodeRegister (a : Half) (acc : Access) : accessOf (decodeRegister a acc) = some acc := by
  show accessOf ((registerAt (a &&& 0x07FE).toNat acc).getD (.unmapped (a &&& 0x07FE) acc)) = some acc
  cases h : registerAt (a &&& 0x07FE).toNat acc with
  | none => rfl
  | some i => exact accessOf_registerAt h

/-! ## Writes that, repeated, change nothing more -/

/-- An operation that, performed again in the state it left, leaves that state. -/
def Idempotent (f : State → Result) : Prop := ∀ s t, f s = .next t → f t = .next t

theorem idempotent_of_next {f : State → State} (h : ∀ s, f (f s) = f s) : Idempotent fun s => .next (f s) := by
  rintro s _ ⟨⟩
  exact congrArg Host.Outcome.next (h s)

theorem idempotent_register (rd : State → Half) {wr : Half → State → State} {d : Half}
    (h : ∀ s, wr d (wr d s) = wr d s) : Idempotent (registerAccess rd wr (.write d)) :=
  idempotent_of_next h

theorem idempotent_readOnly (rd : State → Half) (d : Half) : Idempotent (readOnlyAccess rd (.write d)) :=
  idempotent_register rd fun _ => rfl

theorem idempotent_updCore (c : CoreId) {f : Core → Core} (h : ∀ k, f (f k) = f k) :
    Idempotent fun s => .next (s.updCore c f) := by
  refine idempotent_of_next fun s => ?_
  simp only [State.updCore, engine_updCore_updCore, h]

theorem idempotent_core (c : CoreId) (rd : Core → Half) {wr : Half → Core → Core} {d : Half}
    (h : ∀ k, wr d (wr d k) = wr d k) : Idempotent (coreAccess c rd wr (.write d)) :=
  idempotent_updCore c h

theorem idempotent_voice (c : CoreId) (v : VoiceId) (rd : Voice → Half) {wr : Half → Voice → Voice} {d : Half}
    (h : ∀ w, wr d (wr d w) = wr d w) : Idempotent (voiceAccess c v rd wr (.write d)) := by
  refine idempotent_updCore c fun k => ?_
  simp only [core_updVoice_updVoice, h]

section Halves

variable (c : CoreId) (d : Half)

/-- A field of a core with a write that stores to it: the last value written stands. -/
structure Stores {α : Type} (rd : Core → α) (wr : α → Core → Core) : Prop where
  read_write : ∀ x k, rd (wr x k) = x
  write_write : ∀ x y k, wr y (wr x k) = wr y k

theorem stores_off (o : RvbOffset) (ch : Side) : Stores (fun k => k.off o ch) (fun x k => k.setOff o ch x) :=
  ⟨fun _ _ => by simp [Core.off, Core.setOff], fun _ _ _ => by simp⟩

/-- A half written to such a field, where writing the half twice is writing it once. -/
theorem idempotent_half {α : Type} {rd : Core → α} {wr : α → Core → Core} (hstores : Stores rd wr)
    (get : Core → Half) {set : α → Half → α} (hset : ∀ x, set (set x d) d = set x d) :
    Idempotent (coreAccess c get (fun d k => wr (set (rd k) d) k) (.write d)) :=
  idempotent_core c get fun k => by rw [hstores.read_write, hstores.write_write, hset]

theorem idempotent_maskLow {rd : Core → VoiceMask} {wr : VoiceMask → Core → Core} (h : Stores rd wr) :
    Idempotent (coreMaskLow c rd wr (.write d)) :=
  idempotent_half c d h (fun k => maskLow (rd k)) fun m => setMaskLow_setMaskLow m d

theorem idempotent_maskHigh {rd : Core → VoiceMask} {wr : VoiceMask → Core → Core} (h : Stores rd wr) :
    Idempotent (coreMaskHigh c rd wr (.write d)) :=
  idempotent_half c d h (fun k => maskHigh (rd k)) fun m => setMaskHigh_setMaskHigh m d

theorem idempotent_addrLow {rd : Core → RamAddr} {wr : RamAddr → Core → Core} (h : Stores rd wr) :
    Idempotent (coreAddrLow c rd wr (.write d)) :=
  idempotent_half c d h (fun k => addrLow (rd k)) fun x => setAddrLow_setAddrLow x d

theorem idempotent_addrHigh {rd : Core → RamAddr} {wr : RamAddr → Core → Core} (h : Stores rd wr) :
    Idempotent (coreAddrHigh c rd wr (.write d)) :=
  idempotent_half c d h (fun k => addrHigh (rd k)) fun x => setAddrHigh_setAddrHigh x d

theorem idempotent_offsetLow (o : RvbOffset) (ch : Side) : Idempotent (offsetLow c o ch (.write d)) :=
  fun s t => idempotent_addrLow c d (stores_off o ch) s t

theorem idempotent_offsetHigh (o : RvbOffset) (ch : Side) : Idempotent (offsetHigh c o ch (.write d)) :=
  fun s t => idempotent_addrHigh c d (stores_off o ch) s t

theorem idempotent_coef (n : RvbCoef) : Idempotent (coefAccess c n (.write d)) :=
  idempotent_core c _ fun k => core_setCoef_setCoef k n d d

/-- Clearing the gate again drops a sequence that is already dropped (46_dma R415). -/
theorem admaAfterWrite_admaAfterWrite (m : Adma) :
    admaAfterWrite c d (admaAfterWrite c d m) = admaAfterWrite c d m := by
  unfold admaAfterWrite
  split <;> rfl

/-- Acknowledging again clears a cause bit that is already clear (40_register_access R166). -/
theorem idempotent_attr : Idempotent (execAttr c (.write d)) := by
  refine idempotent_register (fun s => (s.core c).attr) fun s => ?_
  unfold writeAttr
  cases attrIrqEnable.isSet d <;> cases c <;> rfl

/-- A write to no register records the same access again, or stops (60_exceptions R447). -/
theorem idempotent_unmapped (ra : Half) : Idempotent (execUnmapped ra (.write d)) := by
  intro s t h
  cases hbuild : s.cfg.build with
  | debug => simp [execUnmapped, hbuild] at h
  | release =>
    simp only [execUnmapped, hbuild, unmappedRelease, Host.Outcome.next.injEq] at h
    subst h
    simp [execUnmapped, hbuild, unmappedRelease, recordUnmapped]

end Halves

/-- Every register's write but those of `KON` and `KOFF`, sorted by what the register stores to. -/
theorem idempotent_write {i : Instr} {d : Half} (haccess : accessOf i = some (.write d))
    (hkeys : ∀ c, i ≠ .konL c (.write d) ∧ i ≠ .konH c (.write d) ∧ i ≠ .koffL c (.write d) ∧
      i ≠ .koffH c (.write d)) : Idempotent (exec i) := by
  intro s t
  unfold exec
  cases i with
  | run | runDma | dmaWr | dmaRd | reset => cases haccess
  | konL c | konH c | koffL c | koffH c =>
    obtain rfl := Option.some.inj haccess
    exact absurd (hkeys c) (by simp)
  | envx | volxl | volxr | naxH | naxL | statx | mvolxl | mvolxr | irqstat =>
    obtain rfl := Option.some.inj haccess
    exact idempotent_readOnly _ d s t
  | voll | volr | pitch | adsr1 | adsr2 | ssaH | ssaL | lsaH | lsaL =>
    obtain rfl := Option.some.inj haccess
    exact idempotent_voice _ _ _ (fun w => by simp) s t
  | pmonL | nonL | vmixlL | vmixelL | vmixrL | vmixerL =>
    obtain rfl := Option.some.inj haccess
    exact idempotent_maskLow _ d ⟨fun _ _ => by rfl, fun _ _ _ => by rfl⟩ s t
  | pmonH | nonH | vmixlH | vmixelH | vmixrH | vmixerH =>
    obtain rfl := Option.some.inj haccess
    exact idempotent_maskHigh _ d ⟨fun _ _ => by rfl, fun _ _ _ => by rfl⟩ s t
  | irqaL | esaL | eeaL =>
    obtain rfl := Option.some.inj haccess
    exact idempotent_addrLow _ d ⟨fun _ _ => by rfl, fun _ _ _ => by rfl⟩ s t
  | irqaH | esaH | eeaH =>
    obtain rfl := Option.some.inj haccess
    exact idempotent_addrHigh _ d ⟨fun _ _ => by rfl, fun _ _ _ => by rfl⟩ s t
  | dAPF0_L | dAPF1_L | mSAME0_L | mSAME1_L | mCOMB1_0_L | mCOMB1_1_L | mCOMB2_0_L | mCOMB2_1_L | dSAME0_L
      | dSAME1_L | mDIFF0_L | mDIFF1_L | mCOMB3_0_L | mCOMB3_1_L | mCOMB4_0_L | mCOMB4_1_L | dDIFF0_L | dDIFF1_L
      | mAPF1_0_L | mAPF1_1_L | mAPF2_0_L | mAPF2_1_L =>
    obtain rfl := Option.some.inj haccess
    exact idempotent_offsetLow _ d _ _ s t
  | dAPF0_H | dAPF1_H | mSAME0_H | mSAME1_H | mCOMB1_0_H | mCOMB1_1_H | mCOMB2_0_H | mCOMB2_1_H | dSAME0_H
      | dSAME1_H | mDIFF0_H | mDIFF1_H | mCOMB3_0_H | mCOMB3_1_H | mCOMB4_0_H | mCOMB4_1_H | dDIFF0_H | dDIFF1_H
      | mAPF1_0_H | mAPF1_1_H | mAPF2_0_H | mAPF2_1_H =>
    obtain rfl := Option.some.inj haccess
    exact idempotent_offsetHigh _ d _ _ s t
  | vIIR | vCOMB1 | vCOMB2 | vCOMB3 | vCOMB4 | vWALL | vAPF1 | vAPF2 | vIN0 | vIN1 =>
    obtain rfl := Option.some.inj haccess
    exact idempotent_coef _ d _ s t
  | mmix | tsaH | tsaL | endxL | endxH | mvoll | mvolr | evoll | evolr | avoll | avolr | bvoll | bvolr =>
    obtain rfl := Option.some.inj haccess
    exact idempotent_core _ _ (fun k => by simp [Core.clearAllEndx]) s t
  | admas c =>
    obtain rfl := Option.some.inj haccess
    exact idempotent_core c _ (fun k => by simp [admaAfterWrite_admaAfterWrite]) s t
  | attr c => obtain rfl := Option.some.inj haccess; exact idempotent_attr c d s t
  | spdifOut | spdifMode | spdifMedia =>
    obtain rfl := Option.some.inj haccess
    exact idempotent_register _ (fun s => by rfl) s t
  | unmapped ra => obtain rfl := Option.some.inj haccess; exact idempotent_unmapped d ra s t

/-- Settles O23: the decoder hands the write on, and every such write is idempotent. -/
theorem registerWritesAreIdempotent : Obligations.RegisterWritesAreIdempotent :=
  fun a d s t hkeys => idempotent_write (accessOf_decodeRegister a (.write d)) hkeys s t

end Sys2Proof.Machine

/-! # The encoding (30_encoding)

Where the registers lie: each address formula of the encoder reads its row of the register map, and each row of the map makes operations that the encoder writes back to that row. The first half gives `decode` after `encode`, the second `encode` after `decode`. -/

namespace Sys2Proof.Machine

/-! ## The fields of a transaction word (R100) -/

@[simp] theorem wordData_packWord (cmd : BitVec 4) (a d : Half) : wordData (packWord cmd a d) = d :=
  BitVec.extractLsb'_append_eq_right

@[simp] theorem wordAddress_packWord (cmd : BitVec 4) (a d : Half) : wordAddress (packWord cmd a d) = a :=
  (BitVec.extractLsb'_append_eq_ite (xhi := cmd ++ a) (xlo := d) (start := 16) (len := 16)).trans
    BitVec.extractLsb'_append_eq_right

@[simp] theorem wordCmd_packWord (cmd : BitVec 4) (a d : Half) : wordCmd (packWord cmd a d) = cmd :=
  (BitVec.extractLsb'_append_eq_ite (xhi := cmd ++ a) (xlo := d) (start := 32) (len := 4)).trans
    BitVec.extractLsb'_append_eq_left

theorem packWord_fields (t : TransWord) : packWord (wordCmd t) (wordAddress t) (wordData t) = t := by
  have hhigh : wordCmd t ++ wordAddress t = t.extractLsb' 16 20 :=
    BitVec.extractLsb'_append_extractLsb'_eq_extractLsb' rfl
  have hall : t.extractLsb' 16 20 ++ wordData t = t.extractLsb' 0 36 :=
    BitVec.extractLsb'_append_extractLsb'_eq_extractLsb' rfl
  rw [packWord, hhigh]
  exact hall.trans BitVec.extractLsb'_eq_self

/-- Masking the operands of a word: the operation code stays whole. -/
theorem packWord_eq_and {t : TransWord} {cmd : BitVec 4} {a d amask dmask : Half} (hcmd : wordCmd t = cmd)
    (ha : wordAddress t &&& amask = a) (hd : wordData t &&& dmask = d) :
    packWord cmd a d = t &&& packWord 0xF amask dmask := by
  have hcode : wordCmd t &&& 0xF = cmd := BitVec.and_allOnes.trans hcmd
  have hfields : packWord (wordCmd t) (wordAddress t) (wordData t) &&& packWord 0xF amask dmask =
      packWord (wordCmd t &&& 0xF) (wordAddress t &&& amask) (wordData t &&& dmask) :=
    BitVec.and_append.trans (congrArg (· ++ (wordData t &&& dmask)) BitVec.and_append)
  rw [packWord_fields, hcode, ha, hd] at hfields
  exact hfields.symm

/-! ## The operation codes (R101) -/

theorem decode_packWord_read (a d : Half) : decode (packWord 0 a d) = .ok (decodeRegister a .read) := by
  simp [decode]

theorem decode_packWord_write (a d : Half) : decode (packWord 1 a d) = .ok (decodeRegister a (.write d)) := by
  simp [decode]

theorem decode_packWord_run (a d : Half) : decode (packWord 2 a d) = .ok (.run d) := by
  simp [decode]

theorem decode_packWord_runDma (a d : Half) :
    decode (packWord 3 a d) = .ok (.runDma (if a.getLsbD 0 = true then .core1 else .core0) d) := by
  simp [decode, wordCore]

theorem decode_packWord_dmaWr (a d : Half) :
    decode (packWord 4 a d) = .ok (.dmaWr (if a.getLsbD 0 = true then .core1 else .core0) d) := by
  simp [decode, wordCore]

theorem decode_packWord_dmaRd (a d : Half) :
    decode (packWord 5 a d) = .ok (.dmaRd (if a.getLsbD 0 = true then .core1 else .core0) d) := by
  simp [decode, wordCore]

theorem decode_packWord_reset (a d : Half) : decode (packWord 6 a d) = .ok .reset := by
  simp [decode]

theorem core_of_coreOperand (c : CoreId) : (if (coreOperand c).getLsbD 0 = true then .core1 else .core0) = c := by
  cases c <;> rfl

/-- The core operand is the address's bit 0 alone. -/
theorem coreOperand_wordCore (t : TransWord) : coreOperand (wordCore t) = wordAddress t &&& 1 := by
  rw [show wordAddress t &&& 1 = _ from BitVec.and_one_eq_setWidth_ofBool_getLsbD, wordCore]
  cases (wordAddress t).getLsbD 0 <;> rfl

theorem registerWord_read (a : Half) : registerWord a.toNat .read = packWord 0 a 0 := by
  rw [registerWord, BitVec.ofNat_toNat, BitVec.setWidth_eq]

theorem registerWord_write (a d : Half) : registerWord a.toNat (.write d) = packWord 1 a d := by
  rw [registerWord, BitVec.ofNat_toNat, BitVec.setWidth_eq]

/-- What a word that decodes is: one of the seven codes, with the operation of that code. -/
theorem decode_cases {t : TransWord} {i : Instr} (h : decode t = .ok i) :
    wordCmd t = 0 ∧ i = decodeRegister (wordAddress t) .read ∨
    wordCmd t = 1 ∧ i = decodeRegister (wordAddress t) (.write (wordData t)) ∨
    wordCmd t = 2 ∧ i = .run (wordData t) ∨
    wordCmd t = 3 ∧ i = .runDma (wordCore t) (wordData t) ∨
    wordCmd t = 4 ∧ i = .dmaWr (wordCore t) (wordData t) ∨
    wordCmd t = 5 ∧ i = .dmaRd (wordCore t) (wordData t) ∨
    wordCmd t = 6 ∧ i = .reset := by
  unfold decode at h
  split at h
  case h_8 => cases h
  all_goals
    next hcmd =>
    obtain rfl := Except.ok.inj h
    simp [← BitVec.toNat_inj, hcmd]

theorem decode_reserved {t : TransWord} (h : 7 ≤ (wordCmd t).toNat) :
    decode t = .error (.reservedOperation (wordCmd t)) := by
  unfold decode
  split
  case h_8 => rfl
  all_goals
    next hcmd => omega

theorem exists_decode {t : TransWord} (h : (wordCmd t).toNat < 7) : ∃ i, decode t = .ok i := by
  unfold decode
  interval_cases (wordCmd t).toNat <;> exact ⟨_, rfl⟩

/-! ## Masked addresses (R102) -/

/-- The mask keeps the even part of the address below 0x800. -/
theorem toNat_and_mask (a : Half) : (a &&& 0x07FE).toNat = a.toNat / 2 % 0x400 * 2 := by
  have hhalf : (a &&& 0x07FE).toNat / 2 = a.toNat / 2 % 0x400 := by
    rw [BitVec.toNat_and, Nat.and_div_two]
    exact Nat.and_two_pow_sub_one_eq_mod _ 10
  have heven : (a &&& 0x07FE).toNat % 2 = 0 := by
    rw [BitVec.toNat_and]
    exact (Nat.and_mod_two_pow (n := 1)).trans (Nat.and_zero _)
  omega

/-- The addresses that the mask leaves alone. -/
def IsMasked (r : Nat) : Prop := r % 2 = 0 ∧ r < 0x800

theorem isMasked_toNat_and_mask (a : Half) : IsMasked (a &&& 0x07FE).toNat := by
  rw [IsMasked, toNat_and_mask]
  omega

theorem toNat_ofNat_and_mask {r : Nat} (hr : IsMasked r) : (BitVec.ofNat 16 r &&& 0x07FE).toNat = r := by
  obtain ⟨heven, hlt⟩ := hr
  rw [toNat_and_mask, BitVec.toNat_ofNat]
  omega

theorem and_mask_and_mask (a : Half) : a &&& 0x07FE &&& 0x07FE = a &&& 0x07FE := by
  rw [BitVec.and_assoc, BitVec.and_self]

theorem decodeRegister_of_registerAt {a : Half} {acc : Access} {i : Instr}
    (h : registerAt (a &&& 0x07FE).toNat acc = some i) : decodeRegister a acc = i := by
  simp only [decodeRegister, h, Option.getD_some]

theorem decodeRegister_of_registerAt_none {a : Half} {acc : Access}
    (h : registerAt (a &&& 0x07FE).toNat acc = none) : decodeRegister a acc = .unmapped (a &&& 0x07FE) acc := by
  simp only [decodeRegister, h, Option.getD_none]

theorem decodeRegister_and_mask (a : Half) (acc : Access) :
    decodeRegister (a &&& 0x07FE) acc = decodeRegister a acc := by
  simp only [decodeRegister, and_mask_and_mask]

theorem decode_registerWord (r : Nat) (acc : Access) :
    decode (registerWord r acc) = .ok (decodeRegister (BitVec.ofNat 16 r) acc) := by
  cases acc with
  | read => exact decode_packWord_read _ _
  | write d => exact decode_packWord_write _ d

theorem decode_registerWord_of_registerAt {r : Nat} {acc : Access} {i : Instr} (hr : IsMasked r)
    (h : registerAt r acc = some i) : decode (registerWord r acc) = .ok i := by
  rw [decode_registerWord, decodeRegister_of_registerAt (by rwa [toNat_ofNat_and_mask hr])]

/-! ## The register map at each address formula (R104 to R108) -/

section Addresses

variable (c : CoreId) (v : VoiceId) (acc : Access) {off : Nat}

theorem coreId_num_le : c.num ≤ 1 := by cases c <;> decide

theorem registerAt_coreAddress (h : off < 0x360) :
    registerAt (coreAddress c off) acc = coreRegisterAt c off acc := by
  have hbelow : coreAddress c off < 0x760 := by cases c <;> simp only [coreAddress, CoreId.num] <;> omega
  have hoff : coreAddress c off % 0x400 = off := by cases c <;> simp only [coreAddress, CoreId.num] <;> omega
  have hcore : coreOfAddress (coreAddress c off) = c := by
    cases c with
    | core0 => exact if_pos (by simp only [coreAddress, CoreId.num]; omega)
    | core1 => exact if_neg (by simp only [coreAddress, CoreId.num]; omega)
  rw [registerAt, if_pos hbelow, hcore, hoff]

theorem registerAt_voiceParamAddress (h : off < 0x10) :
    registerAt (voiceParamAddress c v off) acc = (rowAt voiceParamRows off).map fun mk => mk c v acc := by
  have hv := v.isLt
  have haddr : voiceParamAddress c v off = coreAddress c (v.val * 0x10 + off) := Nat.add_assoc ..
  have hoff : (v.val * 0x10 + off) % 0x10 = off := by omega
  have hvoice : Fin.ofNat 24 ((v.val * 0x10 + off) / 0x10) = v := by
    apply Fin.ext
    simp only [Fin.ofNat]
    omega
  rw [haddr, registerAt_coreAddress c acc (by omega), coreRegisterAt, if_pos (by omega), hoff, hvoice]

theorem registerAt_voiceHalfAddress (h : off < 0xC) :
    registerAt (voiceHalfAddress c v off) acc = (rowAt voiceAddressRows off).map fun mk => mk c v acc := by
  have hv := v.isLt
  have haddr : voiceHalfAddress c v off = coreAddress c (0x1C0 + (v.val * 0xC + off)) := by
    simp only [voiceHalfAddress, coreAddress, Nat.add_assoc]
  have hoff : (0x1C0 + (v.val * 0xC + off) - 0x1C0) % 0xC = off := by omega
  have hvoice : Fin.ofNat 24 ((0x1C0 + (v.val * 0xC + off) - 0x1C0) / 0xC) = v := by
    apply Fin.ext
    simp only [Fin.ofNat]
    omega
  rw [haddr, registerAt_coreAddress c acc (by omega), coreRegisterAt, if_neg (by omega), if_neg (by omega),
    if_pos (by omega), hoff, hvoice]

theorem registerAt_volumeAddress (h : off < 0x28) :
    registerAt (volumeAddress c off) acc = (rowAt volumeRows off).map fun mk => mk c acc := by
  cases c with
  | core0 =>
    have haddr : volumeAddress .core0 off = 0x760 + off := rfl
    rw [registerAt, haddr, if_neg (by omega), if_pos (by omega), Nat.add_sub_cancel_left]
  | core1 =>
    have haddr : volumeAddress .core1 off = 0x788 + off := rfl
    rw [registerAt, haddr, if_neg (by omega), if_neg (by omega), if_pos (by omega), Nat.add_sub_cancel_left]

theorem registerAt_of_ge (h : 0x7B0 ≤ off) :
    registerAt off acc = (rowAt sharedRows off).map fun mk => mk acc := by
  rw [registerAt, if_neg (by omega), if_neg (by omega), if_neg (by omega)]

end Addresses

/-! ## Each row of the map is the register at its address, which the mask leaves alone -/

section Rows

variable {c : CoreId} {v : VoiceId} {acc : Access} {off : Nat}

theorem voiceParamRows_offset {mk : CoreId → VoiceId → Access → Instr} (h : rowAt voiceParamRows off = some mk) :
    off % 2 = 0 ∧ off < 0x10 :=
  (by decide : ∀ row ∈ voiceParamRows, row.1 % 2 = 0 ∧ row.1 < 0x10) _ (mem_of_rowAt h)

theorem voiceAddressRows_offset {mk : CoreId → VoiceId → Access → Instr}
    (h : rowAt voiceAddressRows off = some mk) : off % 2 = 0 ∧ off < 0xC :=
  (by decide : ∀ row ∈ voiceAddressRows, row.1 % 2 = 0 ∧ row.1 < 0xC) _ (mem_of_rowAt h)

theorem volumeRows_offset {mk : CoreId → Access → Instr} (h : rowAt volumeRows off = some mk) :
    off % 2 = 0 ∧ off < 0x28 :=
  (by decide : ∀ row ∈ volumeRows, row.1 % 2 = 0 ∧ row.1 < 0x28) _ (mem_of_rowAt h)

theorem sharedRows_offset {mk : Access → Instr} (h : rowAt sharedRows off = some mk) :
    off % 2 = 0 ∧ 0x7B0 ≤ off ∧ off < 0x800 :=
  (by decide : ∀ row ∈ sharedRows, row.1 % 2 = 0 ∧ 0x7B0 ≤ row.1 ∧ row.1 < 0x800) _ (mem_of_rowAt h)

theorem registerAt_voiceParam {mk : CoreId → VoiceId → Access → Instr} (h : rowAt voiceParamRows off = some mk) :
    registerAt (voiceParamAddress c v off) acc = some (mk c v acc) := by
  rw [registerAt_voiceParamAddress c v acc (voiceParamRows_offset h).2, h, Option.map_some]

theorem registerAt_voiceHalf {mk : CoreId → VoiceId → Access → Instr} (h : rowAt voiceAddressRows off = some mk) :
    registerAt (voiceHalfAddress c v off) acc = some (mk c v acc) := by
  rw [registerAt_voiceHalfAddress c v acc (voiceAddressRows_offset h).2, h, Option.map_some]

theorem decode_voiceParam {mk : CoreId → VoiceId → Access → Instr} (h : rowAt voiceParamRows off = some mk) :
    decode (registerWord (voiceParamAddress c v off) acc) = .ok (mk c v acc) := by
  have hmasked : IsMasked (voiceParamAddress c v off) := by
    have hoff := voiceParamRows_offset h
    have hc := coreId_num_le c
    have hv := v.isLt
    simp only [IsMasked, voiceParamAddress]
    omega
  exact decode_registerWord_of_registerAt hmasked (registerAt_voiceParam h)

theorem decode_voiceHalf {mk : CoreId → VoiceId → Access → Instr} (h : rowAt voiceAddressRows off = some mk) :
    decode (registerWord (voiceHalfAddress c v off) acc) = .ok (mk c v acc) := by
  have hmasked : IsMasked (voiceHalfAddress c v off) := by
    have hoff := voiceAddressRows_offset h
    have hc := coreId_num_le c
    have hv := v.isLt
    simp only [IsMasked, voiceHalfAddress]
    omega
  exact decode_registerWord_of_registerAt hmasked (registerAt_voiceHalf h)

theorem decode_coreRegister {i : Instr} (hoff : off % 2 = 0 ∧ off < 0x360)
    (h : coreRegisterAt c off acc = some i) : decode (registerWord (coreAddress c off) acc) = .ok i := by
  have hmasked : IsMasked (coreAddress c off) := by
    have hc := coreId_num_le c
    simp only [IsMasked, coreAddress]
    omega
  exact decode_registerWord_of_registerAt hmasked ((registerAt_coreAddress c acc hoff.2).trans h)

theorem decode_volume {mk : CoreId → Access → Instr} (h : rowAt volumeRows off = some mk) :
    decode (registerWord (volumeAddress c off) acc) = .ok (mk c acc) := by
  have hoff := volumeRows_offset h
  have hmasked : IsMasked (volumeAddress c off) := by
    have hc := coreId_num_le c
    simp only [IsMasked, volumeAddress]
    omega
  refine decode_registerWord_of_registerAt hmasked ?_
  rw [registerAt_volumeAddress c acc hoff.2, h, Option.map_some]

theorem decode_shared {mk : Access → Instr} (h : rowAt sharedRows off = some mk) :
    decode (registerWord off acc) = .ok (mk acc) := by
  obtain ⟨heven, hge, hlt⟩ := sharedRows_offset h
  refine decode_registerWord_of_registerAt ⟨heven, hlt⟩ ?_
  rw [registerAt_of_ge acc hge, h, Option.map_some]

end Rows

/-! ## The holes of the register map (R103, R106, R108) -/

theorem rowAt_eq_none_iff {α : Type} (rows : List (Nat × α)) (off : Nat) :
    rowAt rows off = none ↔ ∀ row ∈ rows, row.1 ≠ off := by
  induction rows with
  | nil => simp [rowAt]
  | cons row rows ih => by_cases h : row.1 = off <;> simp [rowAt, h, ih]

/-- A table with a row at each even offset of a range answers within that range. -/
theorem rowAt_ne_none {α : Type} {rows : List (Nat × α)} {start n off : Nat}
    (hrows : ∀ k < n, (rowAt rows (start + 2 * k)).isSome = true) (heven : (off - start) % 2 = 0)
    (hge : start ≤ off) (hlt : off < start + 2 * n) : rowAt rows off ≠ none := by
  have hrow := hrows ((off - start) / 2) (by omega)
  rw [show start + 2 * ((off - start) / 2) = off by omega] at hrow
  exact Option.isSome_iff_ne_none.1 hrow

theorem coreRows_eq_none_iff {off : Nat} (heven : off % 2 = 0) (hge : 0x180 ≤ off) (hlt : off < 0x1C0) :
    rowAt coreRows off = none ↔ 0x1AC ≤ off ∧ off ≤ 0x1AE ∨ 0x1B2 ≤ off := by
  have hrows : ∀ k < 32, rowAt coreRows (0x180 + 2 * k) = none ↔
      0x1AC ≤ 0x180 + 2 * k ∧ 0x180 + 2 * k ≤ 0x1AE ∨ 0x1B2 ≤ 0x180 + 2 * k := by
    simp only [← Option.isNone_iff_eq_none]
    decide
  have hrow := hrows ((off - 0x180) / 2) (by omega)
  rwa [show 0x180 + 2 * ((off - 0x180) / 2) = off by omega] at hrow

theorem coreRegisterAt_eq_none_iff (c : CoreId) {off : Nat} (heven : off % 2 = 0) (acc : Access) :
    coreRegisterAt c off acc = none ↔
      0x1AC ≤ off ∧ off ≤ 0x1AE ∨ 0x1B2 ≤ off ∧ off ≤ 0x1BE ∨ 0x346 ≤ off := by
  unfold coreRegisterAt
  split
  · have hrow : rowAt voiceParamRows (off % 0x10) ≠ none :=
      rowAt_ne_none (start := 0) (n := 8) (by decide) (by omega) (by omega) (by omega)
    exact iff_of_false (mt Option.map_eq_none_iff.1 hrow) (by omega)
  split
  · rw [Option.map_eq_none_iff, coreRows_eq_none_iff heven (by omega) (by omega)]
    omega
  split
  · have hrow : rowAt voiceAddressRows ((off - 0x1C0) % 0xC) ≠ none :=
      rowAt_ne_none (start := 0) (n := 6) (by decide) (by omega) (by omega) (by omega)
    exact iff_of_false (mt Option.map_eq_none_iff.1 hrow) (by omega)
  split
  · have hrow : rowAt reverbOffsetRows off ≠ none :=
      rowAt_ne_none (start := 0x2E4) (n := 44) (by decide) (by omega) (by omega) (by omega)
    exact iff_of_false (mt Option.map_eq_none_iff.1 hrow) (by omega)
  · rw [Option.map_eq_none_iff, rowAt_eq_none_iff]
    simp only [coreRows2, List.forall_mem_cons, List.not_mem_nil, false_implies, implies_true, and_true]
    omega

/-- A masked address holds no register exactly in the holes. -/
theorem registerAt_eq_none_iff {r : Nat} (hr : IsMasked r) (acc : Access) :
    registerAt r acc = none ↔ ∃ h ∈ registerHoles, h.1 ≤ r ∧ r ≤ h.2 := by
  obtain ⟨heven, hlt⟩ := hr
  simp only [registerHoles, List.exists_mem_cons_iff, List.not_mem_nil, false_and, exists_false, or_false]
  unfold registerAt
  split
  · rw [coreRegisterAt_eq_none_iff _ (by omega)]
    omega
  split
  · have hrow : rowAt volumeRows (r - 0x760) ≠ none :=
      rowAt_ne_none (start := 0) (n := 20) (by decide) (by omega) (by omega) (by omega)
    exact iff_of_false (mt Option.map_eq_none_iff.1 hrow) (by omega)
  split
  · have hrow : rowAt volumeRows (r - 0x788) ≠ none :=
      rowAt_ne_none (start := 0) (n := 20) (by decide) (by omega) (by omega) (by omega)
    exact iff_of_false (mt Option.map_eq_none_iff.1 hrow) (by omega)
  · rw [Option.map_eq_none_iff, rowAt_eq_none_iff]
    simp only [sharedRows, List.forall_mem_cons, List.not_mem_nil, false_implies, implies_true, and_true]
    omega

theorem isUnmapped_iff {ra : Half} (hra : IsMasked ra.toNat) (acc : Access) :
    isUnmapped ra = true ↔ registerAt ra.toNat acc = none := by
  rw [registerAt_eq_none_iff hra]
  simp [isUnmapped]

theorem isRegisterAddress_iff (ra : Half) : isRegisterAddress ra = true ↔ ra &&& 0x07FE = ra := beq_iff_eq

theorem wellFormed_unmapped_iff (a : Half) (acc : Access) :
    (Instr.unmapped (a &&& 0x07FE) acc).wellFormed = true ↔ registerAt (a &&& 0x07FE).toNat acc = none := by
  have haddr : isRegisterAddress (a &&& 0x07FE) = true := (isRegisterAddress_iff _).2 (and_mask_and_mask a)
  rw [Instr.wellFormed, haddr, Bool.true_and, isUnmapped_iff (isMasked_toNat_and_mask a)]

theorem decode_unmapped {ra : Half} {acc : Access} (h : (Instr.unmapped ra acc).wellFormed = true) :
    decode (registerWord ra.toNat acc) = .ok (.unmapped ra acc) := by
  have hmask : ra &&& 0x07FE = ra := (isRegisterAddress_iff ra).1 (Bool.and_elim_left h)
  have hnone : registerAt (ra &&& 0x07FE).toNat acc = none :=
    (wellFormed_unmapped_iff ra acc).1 (hmask.symm ▸ h)
  rw [decode_registerWord, BitVec.ofNat_toNat, BitVec.setWidth_eq, decodeRegister_of_registerAt_none hnone, hmask]

/-! ## What a register decodes to encodes back (R104 to R108) -/

/-- The operation is a well-formed access to the register at `r`. -/
structure IsAccessAt (r : Nat) (acc : Access) (i : Instr) : Prop where
  wellFormed : i.wellFormed = true
  encode_eq : encode i = registerWord r acc

/-- A table whose rows make accesses to the registers at its offsets answers such an access. -/
theorem isAccessAt_of_rowAt {α : Type} {rows : List (Nat × α)} {make : α → Instr} {addr : Nat → Nat} {acc : Access}
    (hrows : ∀ row ∈ rows, IsAccessAt (addr row.1) acc (make row.2)) {off : Nat} {i : Instr}
    (h : (rowAt rows off).map make = some i) : IsAccessAt (addr off) acc i := by
  obtain ⟨x, hx, rfl⟩ := Option.map_eq_some_iff.1 h
  exact hrows _ (mem_of_rowAt hx)

section Rows

variable (c : CoreId) (v : VoiceId) (acc : Access)

theorem isAccessAt_voiceParamRows :
    ∀ row ∈ voiceParamRows, IsAccessAt (voiceParamAddress c v row.1) acc (row.2 c v acc) := by
  simp only [voiceParamRows, List.forall_mem_cons, List.not_mem_nil, false_implies, implies_true, and_true]
  and_intros <;> exact ⟨rfl, rfl⟩

theorem isAccessAt_voiceAddressRows :
    ∀ row ∈ voiceAddressRows, IsAccessAt (voiceHalfAddress c v row.1) acc (row.2 c v acc) := by
  simp only [voiceAddressRows, List.forall_mem_cons, List.not_mem_nil, false_implies, implies_true, and_true]
  and_intros <;> exact ⟨rfl, rfl⟩

theorem isAccessAt_coreRows :
    ∀ row ∈ coreRows, IsAccessAt (coreAddress c row.1) acc (row.2 c acc) := by
  simp only [coreRows, List.forall_mem_cons, List.not_mem_nil, false_implies, implies_true, and_true]
  and_intros <;> exact ⟨rfl, rfl⟩

theorem isAccessAt_coreRows2 :
    ∀ row ∈ coreRows2, IsAccessAt (coreAddress c row.1) acc (row.2 c acc) := by
  simp only [coreRows2, List.forall_mem_cons, List.not_mem_nil, false_implies, implies_true, and_true]
  and_intros <;> exact ⟨rfl, rfl⟩

theorem isAccessAt_reverbOffsetRows :
    ∀ row ∈ reverbOffsetRows, IsAccessAt (coreAddress c row.1) acc (row.2 c acc) := by
  simp only [reverbOffsetRows, List.forall_mem_cons, List.not_mem_nil, false_implies, implies_true, and_true]
  and_intros <;> exact ⟨rfl, rfl⟩

theorem isAccessAt_volumeRows :
    ∀ row ∈ volumeRows, IsAccessAt (volumeAddress c row.1) acc (row.2 c acc) := by
  simp only [volumeRows, List.forall_mem_cons, List.not_mem_nil, false_implies, implies_true, and_true]
  and_intros <;> exact ⟨rfl, rfl⟩

theorem isAccessAt_sharedRows :
    ∀ row ∈ sharedRows, IsAccessAt row.1 acc (row.2 acc) := by
  simp only [sharedRows, List.forall_mem_cons, List.not_mem_nil, false_implies, implies_true, and_true]
  and_intros <;> exact ⟨rfl, rfl⟩

end Rows

theorem isAccessAt_of_coreRegisterAt {c : CoreId} {off : Nat} {acc : Access} {i : Instr}
    (h : coreRegisterAt c off acc = some i) : IsAccessAt (coreAddress c off) acc i := by
  unfold coreRegisterAt at h
  split at h
  · have hvoice : (Fin.ofNat 24 (off / 0x10)).val = off / 0x10 := Nat.mod_eq_of_lt (by omega)
    have haddr : voiceParamAddress c (Fin.ofNat 24 (off / 0x10)) (off % 0x10) = coreAddress c off := by
      simp only [voiceParamAddress, coreAddress, hvoice]
      omega
    exact haddr ▸ isAccessAt_of_rowAt (isAccessAt_voiceParamRows c _ acc) h
  split at h
  · exact isAccessAt_of_rowAt (isAccessAt_coreRows c acc) h
  split at h
  · have hvoice : (Fin.ofNat 24 ((off - 0x1C0) / 0xC)).val = (off - 0x1C0) / 0xC := Nat.mod_eq_of_lt (by omega)
    have haddr : voiceHalfAddress c (Fin.ofNat 24 ((off - 0x1C0) / 0xC)) ((off - 0x1C0) % 0xC) =
        coreAddress c off := by
      simp only [voiceHalfAddress, coreAddress, hvoice]
      omega
    exact haddr ▸ isAccessAt_of_rowAt (isAccessAt_voiceAddressRows c _ acc) h
  split at h
  · exact isAccessAt_of_rowAt (isAccessAt_reverbOffsetRows c acc) h
  · exact isAccessAt_of_rowAt (isAccessAt_coreRows2 c acc) h

theorem coreAddress_coreOfAddress {r : Nat} (h : r < 0x760) : coreAddress (coreOfAddress r) (r % 0x400) = r := by
  unfold coreAddress coreOfAddress
  split <;> simp only [CoreId.num] <;> omega

theorem isAccessAt_of_registerAt {r : Nat} {acc : Access} {i : Instr} (h : registerAt r acc = some i) :
    IsAccessAt r acc i := by
  unfold registerAt at h
  split at h
  · next hlt => exact coreAddress_coreOfAddress hlt ▸ isAccessAt_of_coreRegisterAt h
  split at h
  · have haddr : volumeAddress .core0 (r - 0x760) = r := by
      simp only [volumeAddress, CoreId.num]
      omega
    exact haddr ▸ isAccessAt_of_rowAt (isAccessAt_volumeRows .core0 acc) h
  split at h
  · have haddr : volumeAddress .core1 (r - 0x788) = r := by
      simp only [volumeAddress, CoreId.num]
      omega
    exact haddr ▸ isAccessAt_of_rowAt (isAccessAt_volumeRows .core1 acc) h
  · exact isAccessAt_of_rowAt (addr := id) (isAccessAt_sharedRows acc) h

/-- The decoded register operation is the access to the masked address, in a hole as `UNMAPPED` (R102, R140). -/
theorem isAccessAt_decodeRegister (a : Half) (acc : Access) :
    IsAccessAt (a &&& 0x07FE).toNat acc (decodeRegister a acc) := by
  cases h : registerAt (a &&& 0x07FE).toNat acc with
  | none =>
    rw [decodeRegister_of_registerAt_none h]
    exact ⟨(wellFormed_unmapped_iff a acc).2 h, rfl⟩
  | some i =>
    rw [decodeRegister_of_registerAt h]
    exact isAccessAt_of_registerAt h

/-! ## The obligations -/

/-- Settles O1: every register operation is read back through the row of its register, and every other through its code. -/
theorem decodeInvertsEncode : Obligations.DecodeInvertsEncode := by
  intro i h
  cases i with
  | voll | volr | pitch | adsr1 | adsr2 | envx | volxl | volxr => exact decode_voiceParam rfl
  | ssaH | ssaL | lsaH | lsaL | naxH | naxL => exact decode_voiceHalf rfl
  | mvoll | mvolr | evoll | evolr | avoll | avolr | bvoll | bvolr | mvolxl | mvolxr | vIIR | vCOMB1 | vCOMB2
      | vCOMB3 | vCOMB4 | vWALL | vAPF1 | vAPF2 | vIN0 | vIN1 => exact decode_volume rfl
  | spdifOut | irqstat | spdifMode | spdifMedia => exact decode_shared rfl
  | unmapped => exact decode_unmapped h
  | run n => exact decode_packWord_run 0 n
  | runDma c n => rw [encode, decode_packWord_runDma, core_of_coreOperand]
  | dmaWr c n => rw [encode, decode_packWord_dmaWr, core_of_coreOperand]
  | dmaRd c n => rw [encode, decode_packWord_dmaRd, core_of_coreOperand]
  | reset => exact decode_packWord_reset 0 0
  -- the core registers of R106 and R125
  | _ => exact decode_coreRegister (by decide) rfl

/-- Settles O2: of each code's word the encoder keeps the bits that the decoder reads. -/
theorem decodedWordIsWellFormedAndCanonical : Obligations.DecodedWordIsWellFormedAndCanonical := by
  intro t i h
  have hcore : wordAddress t &&& 1 = coreOperand (wordCore t) := (coreOperand_wordCore t).symm
  obtain ⟨hcmd, rfl⟩ | ⟨hcmd, rfl⟩ | ⟨hcmd, rfl⟩ | ⟨hcmd, rfl⟩ | ⟨hcmd, rfl⟩ | ⟨hcmd, rfl⟩ | ⟨hcmd, rfl⟩ :=
    decode_cases h <;> rw [show t.extractLsb' 32 4 = _ from hcmd]
  · obtain ⟨hwf, hword⟩ := isAccessAt_decodeRegister (wordAddress t) .read
    rw [registerWord_read] at hword
    exact ⟨hwf, hword.trans (packWord_eq_and hcmd rfl BitVec.and_zero)⟩
  · obtain ⟨hwf, hword⟩ := isAccessAt_decodeRegister (wordAddress t) (.write (wordData t))
    rw [registerWord_write] at hword
    exact ⟨hwf, hword.trans (packWord_eq_and hcmd rfl BitVec.and_allOnes)⟩
  · exact ⟨rfl, packWord_eq_and hcmd BitVec.and_zero BitVec.and_allOnes⟩
  · exact ⟨rfl, packWord_eq_and hcmd hcore BitVec.and_allOnes⟩
  · exact ⟨rfl, packWord_eq_and hcmd hcore BitVec.and_allOnes⟩
  · exact ⟨rfl, packWord_eq_and hcmd hcore BitVec.and_allOnes⟩
  · exact ⟨rfl, packWord_eq_and hcmd BitVec.and_zero BitVec.and_zero⟩

/-- Settles O4: the masked address is that of the encoder's formula, whose row the map reads. -/
theorem voiceRegisterAddresses : Obligations.VoiceRegisterAddresses := by
  intro c v a acc param half
  have hparam {r : Nat} {mk} (hrow : rowAt voiceParamRows (r * 2) = some mk) (h : param r) :
      decodeRegister a acc = mk c v acc :=
    decodeRegister_of_registerAt ((congrArg (registerAt · acc) h).trans (registerAt_voiceParam hrow))
  have hhalf {k : Nat} {mk} (hrow : rowAt voiceAddressRows (k * 2) = some mk) (h : half k) :
      decodeRegister a acc = mk c v acc :=
    decodeRegister_of_registerAt ((congrArg (registerAt · acc) h).trans (registerAt_voiceHalf hrow))
  exact ⟨hparam rfl, hparam rfl, hparam rfl, hparam rfl, hparam rfl, hparam rfl, hparam rfl, hparam rfl,
    hhalf rfl, hhalf rfl, hhalf rfl, hhalf rfl, hhalf rfl, hhalf rfl⟩

/-- Settles O3, code by code. -/
theorem operationCodesAndAddressMask : Obligations.OperationCodesAndAddressMask := fun a d =>
  ⟨decode_packWord_read a d, decode_packWord_write a d, decode_packWord_run a d, decode_packWord_runDma a d,
    decode_packWord_dmaWr a d, decode_packWord_dmaRd a d, decode_packWord_reset a d,
    fun acc => (decodeRegister_and_mask a acc).symm⟩

/-- Settles O5: the codes below 7 all decode, the others are refused with their code. -/
theorem reservedOperationCodesAreRefused : Obligations.ReservedOperationCodesAreRefused := by
  intro cmd a d
  have hcmd : wordCmd ((cmd ++ a) ++ d) = cmd := wordCmd_packWord cmd a d
  have hreserved (h : 7 ≤ cmd.toNat) : decode ((cmd ++ a) ++ d) = .error (.reservedOperation cmd) := by
    rw [decode_reserved (hcmd.symm ▸ h), hcmd]
  refine ⟨⟨fun h i => by simp [hreserved h], fun hnone => ?_⟩, fun s supply rest h hpending => ?_⟩
  · by_contra hlt
    obtain ⟨i, hi⟩ := exists_decode (t := (cmd ++ a) ++ d) (by rw [hcmd]; omega)
    exact hnone i hi
  · simp only [step, hpending, hreserved h, refusalOf]

theorem decode_of_encode {i : Instr} {t : TransWord} (hwf : i.wellFormed = true) (ht : encode i = t) :
    decode t = .ok i :=
  ht ▸ decodeInvertsEncode i hwf

/-- Settles O6: each word is the encoding of its operation. -/
theorem writtenOutWordsDecode : Obligations.WrittenOutWordsDecode := by
  refine ⟨?_, ?_, ?_, ?_, ?_, ?_, ?_, ?_, ?_, ?_, ?_, ?_, ?_⟩ <;> exact decode_of_encode (by decide) (by decide)

end Sys2Proof.Machine

/-! # Register accesses (40_register_access)

Each register's meaning is one of the shared accesses, so its statement is the rule of that access (`returns_of`, `ignored_of`, `writesCore_of`, `writesVoice_of`) with what the register's own value does. The last section says what every register access keeps. -/

namespace Sys2Proof.Machine

/-! ## What the written values are -/

/-- R142: a shift by one doubles, modulo 2^16. -/
theorem toInt_shiftLeft_one (d : Half) : (d <<< 1).toInt = (d.toInt * 2).bmod (2 ^ 16) := by
  rw [BitVec.toInt_shiftLeft, Nat.shiftLeft_eq, BitVec.toInt_eq_toNat_bmod, Int.bmod_mul_bmod]
  push_cast
  rfl

theorem writeVolume_written (d : Half) (u : VolUnit) : VolumeWritten d u (writeVolume d u) := by
  have hsweep : volSweep.isSet d = d.getLsbD 15 := isSet_bit 15 d
  obtain ⟨hbit, hwrite⟩ | ⟨hbit, hwrite⟩ := writeVolume_cases d u <;> rw [hsweep] at hbit <;> rw [hwrite]
  · exact ⟨rfl, fun hfixed => absurd (hbit.symm.trans hfixed) (by decide), fun _ => ⟨rfl, rfl⟩⟩
  · exact ⟨rfl, fun _ => ⟨toInt_shiftLeft_one d, rfl⟩, fun hset => absurd (hbit.symm.trans hset) (by decide)⟩

theorem queueMaskLow_getLsbD (m : VoiceMask) (d : Half) {v : Nat} (hv : v < 24) :
    (queueMaskLow m d).getLsbD v = (m.getLsbD v || decide (v < 16) && d.getLsbD v) := by
  simp only [queueMaskLow, BitVec.getLsbD_or, BitVec.truncate_eq_setWidth, BitVec.getLsbD_setWidth, hv, decide_true,
    Bool.true_and]
  by_cases hlow : v < 16
  · simp [hlow]
  · simp [hlow, BitVec.getLsbD_of_ge d v (by omega)]

theorem queueMaskHigh_getLsbD (m : VoiceMask) (d : Half) {v : Nat} (hv : v < 24) :
    (queueMaskHigh m d).getLsbD v = (m.getLsbD v || decide (16 ≤ v) && d.getLsbD (v - 16)) := by
  by_cases hhigh : 16 ≤ v
  · simp [queueMaskHigh, hv, hhigh, show ¬v < 16 by omega, show v - 16 < 8 by omega]
  · simp [queueMaskHigh, hhigh, show v < 16 by omega]

theorem offsetChanged_setOff {k : Core} {o : RvbOffset} {i : Side} {x : RamAddr} {R : RamAddr → RamAddr → Prop}
    (h : R (k.off o i) x) : OffsetChanged o i R k (k.setOff o i x) := by
  refine ⟨by rwa [core_off_setOff_same], fun o' i' hne => core_off_setOff_other k x ?_, rfl⟩
  rintro ⟨rfl, rfl⟩
  exact hne rfl

theorem coefStored_setCoef (n : RvbCoef) (d : Half) (k : Core) : CoefStored n d k (k.setCoef n d) :=
  ⟨core_coef_setCoef_same k n d, fun _ hne => core_coef_setCoef_other k d hne, rfl⟩

theorem admaAfterWrite_eq (c : CoreId) (d : Half) (m : Adma) :
    admaAfterWrite c d m = if d.getLsbD c.num = true then m else { m with left := 0, pending := false } := by
  have hgate : (admasGate c).isSet d = d.getLsbD c.num := isSet_bit _ d
  rw [admaAfterWrite, hgate]

/-- A flag moved to bit `k` of a register. -/
theorem flag_getLsbD (b : Bool) (k : Nat) {i : Nat} (hi : i < 16) :
    ((BitVec.ofBool b).zeroExtend 16 <<< k).getLsbD i = (decide (i = k) && b) := by
  simp only [BitVec.getLsbD_shiftLeft, BitVec.truncate_eq_setWidth, BitVec.getLsbD_setWidth, BitVec.getLsbD_ofBool]
  by_cases hk : i = k
  · simp [hk, show k < 16 by omega]
  · simp only [hk, decide_false, Bool.false_and]
    by_cases hlt : i < k
    · simp [hlt]
    · simp [show i - k ≠ 0 by omega]

theorem irqstatRead_getLsbD (x : IrqStat) {i : Nat} (hi : i < 16) :
    (irqstatRead x).getLsbD i = (decide (i = 2) && x.cause .core0 || decide (i = 3) && x.cause .core1 ||
      decide (i = 4) && x.half) := by
  simp only [irqstatRead, BitVec.getLsbD_or, flag_getLsbD _ _ hi]
  rfl

/-! ## The write of `ATTR` (R166, 60_exceptions R445) -/

theorem writeAttr_of_enabled {d : Half} (h : d.getLsbD 6 = true) (c : CoreId) (s : State) :
    writeAttr c d s = s.updCore c fun k => { k with attr := d } := by
  have hbit : attrIrqEnable.isSet d = true := (isSet_bit 6 d).trans h
  simp only [writeAttr, hbit, if_true]

theorem writeAttr_of_disabled {d : Half} (h : d.getLsbD 6 = false) (c : CoreId) (s : State) :
    writeAttr c d s =
      { s with engine := acknowledgeIrq c (s.engine.updCore c fun k => { k with attr := d }) } := by
  have hbit : attrIrqEnable.isSet d = false := (isSet_bit 6 d).trans h
  simp only [writeAttr, hbit, Bool.false_eq_true, if_false]
  rfl

theorem writeAttr_fault (c : CoreId) (d : Half) (s : State) : (writeAttr c d s).fault = s.fault := by
  cases hbit : d.getLsbD 6 with
  | true => rw [writeAttr_of_enabled hbit, state_updCore_fault]
  | false => rw [writeAttr_of_disabled hbit]

/-! ## The custom-loop latch (42_adpcm R268) -/

/-- The latch shuts out the loop-start capture. -/
theorem latchHeader_lsa {w : Voice} (h : w.customLoop = true) (hdr : Half) : (w.latchHeader hdr).lsa = w.lsa := by
  simp [Voice.latchHeader, h]

theorem readHeader_lsa (m : Memory) {w : Voice} (h : w.customLoop = true) : (readHeader m w).lsa = w.lsa := by
  obtain ⟨-, hread⟩ | ⟨-, hread⟩ := readHeader_cases m w <;> rw [hread]
  exact latchHeader_lsa h _

theorem readData_lsa (cfg : Config) (m : Memory) (w : Voice) : (readData cfg m w).lsa = w.lsa := by
  unfold readData
  split
  · rfl
  · obtain ⟨_, _, _, _, hword⟩ := decodeWord_spec cfg (ramRead m w.nax) w
    rw [hword]

theorem decodeBlockWord_lsa (cfg : Config) (m : Memory) {w : Voice} (h : w.customLoop = true) :
    (decodeBlockWord cfg m w).lsa = w.lsa :=
  (readData_lsa cfg m (readHeader m w)).trans (readHeader_lsa m h)

theorem decodedVoice_lsa (cfg : Config) (m : Memory) (noiseOn : Bool) {w : Voice} (h : w.customLoop = true) :
    (decodedVoice cfg m noiseOn w).lsa = w.lsa := by
  unfold decodedVoice
  split
  · rfl
  split <;> exact decodeBlockWord_lsa cfg m h

/-! ## Voice registers (sections 2 and 3) -/

/-- Settles O8: the write of a volume register is `writeVolume` on its own unit. -/
theorem voiceVolumeRegisters : Obligations.VoiceVolumeRegisters := fun _ _ d _ =>
  ⟨returns_of rfl rfl, returns_of rfl rfl, writesVoice_of rfl ⟨writeVolume_written d _, rfl⟩,
    writesVoice_of rfl ⟨writeVolume_written d _, rfl⟩⟩

/-- Settles O9: storage, for `SSA` by halves. -/
theorem voiceStorageRegisters : Obligations.VoiceStorageRegisters := fun _ _ d _ =>
  ⟨returns_of rfl rfl, returns_of rfl rfl, returns_of rfl rfl, returns_of rfl (addrHigh_isHighHalf _),
    returns_of rfl (addrLow_isLowHalf _), writesVoice_of rfl rfl, writesVoice_of rfl rfl, writesVoice_of rfl rfl,
    writesVoice_of rfl ⟨setAddrHigh_written _ d, rfl⟩, writesVoice_of rfl ⟨setAddrLow_written _ d, rfl⟩⟩

/-- Settles O10: a decode step changes `LSA` by the header's capture alone, which the latch shuts out. -/
theorem voiceLoopAddressRegisters : Obligations.VoiceLoopAddressRegisters := by
  refine fun c v d s => ⟨returns_of rfl (addrHigh_isHighHalf _), returns_of rfl (addrLow_isLowHalf _),
    writesVoice_of rfl ⟨setAddrHigh_written _ d, rfl⟩, writesVoice_of rfl ⟨setAddrLow_written _ d, rfl⟩,
    fun cfg m k hlatch => ?_⟩
  rw [decodeStep_voice_same]
  exact decodedVoice_lsa cfg m _ hlatch

/-- Settles O11: the views are read-only accesses. -/
theorem voiceViewsAreReadOnly : Obligations.VoiceViewsAreReadOnly := fun _ _ _ _ =>
  ⟨returns_of rfl rfl, returns_of rfl rfl, returns_of rfl rfl, returns_of rfl (addrHigh_isHighHalf _),
    returns_of rfl (addrLow_isLowHalf _), ignored_of rfl, ignored_of rfl, ignored_of rfl, ignored_of rfl,
    ignored_of rfl⟩

/-! ## Core registers (sections 4 to 6) -/

/-- Settles O12: the four accesses of each mask, read and written by halves. -/
theorem voiceMaskRegisters : Obligations.VoiceMaskRegisters := by
  intro c d s
  iterate 5
    refine ⟨returns_of rfl (maskLow_isLowHalf _), returns_of rfl (maskHigh_isHighHalf _),
      writesCore_of rfl ⟨setMaskLow_written _ d, rfl⟩, writesCore_of rfl ⟨setMaskHigh_written _ d, rfl⟩, ?_⟩
  exact ⟨returns_of rfl (maskLow_isLowHalf _), returns_of rfl (maskHigh_isHighHalf _),
    writesCore_of rfl ⟨setMaskLow_written _ d, rfl⟩, writesCore_of rfl ⟨setMaskHigh_written _ d, rfl⟩⟩

/-- Settles O13: `MMIX` and the six volumes are fields of the core, the ten coefficients entries of its table. -/
theorem plainCoreRegisters : Obligations.PlainCoreRegisters := by
  intro c d s
  iterate 7 refine ⟨returns_of rfl rfl, writesCore_of rfl rfl, ?_⟩
  iterate 9 refine ⟨returns_of rfl rfl, writesCore_of rfl (coefStored_setCoef _ d _), ?_⟩
  exact ⟨returns_of rfl rfl, writesCore_of rfl (coefStored_setCoef _ d _)⟩

/-- Settles O15: `IRQA`, `ESA` and `EEA` are fields of the core, the 22 offsets entries of its table. -/
theorem coreAddressRegisters : Obligations.CoreAddressRegisters := by
  intro c d s
  iterate 3
    refine ⟨returns_of rfl (addrHigh_isHighHalf _), returns_of rfl (addrLow_isLowHalf _),
      writesCore_of rfl ⟨setAddrHigh_written _ d, rfl⟩, writesCore_of rfl ⟨setAddrLow_written _ d, rfl⟩, ?_⟩
  iterate 21
    refine ⟨returns_of rfl (addrHigh_isHighHalf _), returns_of rfl (addrLow_isLowHalf _),
      writesCore_of rfl (offsetChanged_setOff (setAddrHigh_written _ d)),
      writesCore_of rfl (offsetChanged_setOff (setAddrLow_written _ d)), ?_⟩
  exact ⟨returns_of rfl (addrHigh_isHighHalf _), returns_of rfl (addrLow_isLowHalf _),
    writesCore_of rfl (offsetChanged_setOff (setAddrHigh_written _ d)),
    writesCore_of rfl (offsetChanged_setOff (setAddrLow_written _ d))⟩

/-- Settles O16: a write queues its bits beside those that are pending. -/
theorem keyEventRegisters : Obligations.KeyEventRegisters := fun _ d _ =>
  ⟨returns_of rfl (maskLow_isLowHalf _), returns_of rfl (maskHigh_isHighHalf _),
    returns_of rfl (maskLow_isLowHalf _), returns_of rfl (maskHigh_isHighHalf _),
    writesCore_of rfl ⟨rfl, fun _ hv => queueMaskLow_getLsbD _ d hv⟩,
    writesCore_of rfl ⟨rfl, fun _ hv => queueMaskHigh_getLsbD _ d hv⟩,
    writesCore_of rfl ⟨rfl, fun _ hv => queueMaskLow_getLsbD _ d hv⟩,
    writesCore_of rfl ⟨rfl, fun _ hv => queueMaskHigh_getLsbD _ d hv⟩⟩

/-- Settles O17: the new `TSA` goes to both fields. -/
theorem transferAddressRegister : Obligations.TransferAddressRegister := fun _ d _ =>
  ⟨returns_of rfl (addrHigh_isHighHalf _), returns_of rfl (addrLow_isLowHalf _),
    writesCore_of rfl ⟨setAddrHigh_written _ d, rfl⟩, writesCore_of rfl ⟨setAddrLow_written _ d, rfl⟩⟩

/-- Settles O18: the gate that drops the sequence is bit `c` of the data. -/
theorem autoDmaControlRegister : Obligations.AutoDmaControlRegister := fun c d _ =>
  ⟨returns_of rfl rfl, writesCore_of rfl (by simp only [admaAfterWrite_eq])⟩

/-- Settles O19: each half of `ENDX` clears all flags, and `STATX` is read-only. -/
theorem endFlagsAndDmaStatus : Obligations.EndFlagsAndDmaStatus := fun _ _ _ =>
  ⟨returns_of rfl (maskLow_isLowHalf _), returns_of rfl (maskHigh_isHighHalf _), writesCore_of rfl rfl,
    writesCore_of rfl rfl, returns_of rfl rfl, ignored_of rfl⟩

/-- Settles O20: the write of a master volume is `writeVolume` on its own unit. -/
theorem masterVolumeRegisters : Obligations.MasterVolumeRegisters := fun _ d _ =>
  ⟨returns_of rfl rfl, returns_of rfl rfl, writesCore_of rfl ⟨writeVolume_written d _, rfl⟩,
    writesCore_of rfl ⟨writeVolume_written d _, rfl⟩, returns_of rfl rfl, returns_of rfl rfl, ignored_of rfl,
    ignored_of rfl⟩

/-- Settles O14, by the two cases of `IrqEnable`: storage alone, and storage with the acknowledgement. -/
theorem attributeRegister : Obligations.AttributeRegister := by
  refine fun c d s => ⟨returns_of rfl rfl, writeAttr c d s, rfl, ?_⟩
  cases hbit : d.getLsbD 6 with
  | true =>
    rw [writeAttr_of_enabled hbit]
    obtain ⟨houtside, hram, hirqstat, hlog⟩ := sameBesidesCores_updCore s c fun k => { k with attr := d }
    exact ⟨houtside, hram, hlog, fun _ hc => state_updCore_core_other _ _ hc, state_updCore_core_same .., by simp,
      fun _ _ => by rw [hirqstat], by rw [hirqstat]⟩
  | false =>
    rw [writeAttr_of_disabled hbit]
    refine ⟨sameOutsideEngine_engine s _, fun _ => by simp, by simp, fun c' hc => ?_, ?_, by simp, fun c' hc => ?_,
      by simp⟩
    · exact (acknowledgeIrq_core ..).trans (engine_updCore_core_other _ _ hc)
    · exact (acknowledgeIrq_core ..).trans (engine_updCore_core_same ..)
    · exact (irqStat_cause_setCause_other _ _ hc).trans (by simp)

/-! ## Shared registers and unmapped addresses (sections 7 and 8) -/

theorem sameState_refl (s : State) : SameState s s := ⟨sameBesidesCores_refl s, fun _ => rfl⟩

/-- Settles O21: `IRQSTAT` is read-only, and a write of an SPDIF register touches the SPDIF block alone. -/
theorem interruptStatusAndSpdif : Obligations.InterruptStatusAndSpdif := fun _ s =>
  ⟨returns_of rfl fun _ hi => irqstatRead_getLsbD _ hi, ignored_of rfl, returns_of rfl rfl, returns_of rfl rfl,
    returns_of rfl rfl, ⟨_, rfl, rfl, sameState_refl s⟩, ⟨_, rfl, rfl, sameState_refl s⟩,
    ⟨_, rfl, rfl, sameState_refl s⟩⟩

theorem execUnmapped_release {s : State} (h : s.cfg.build = .release) (ra : Half) (a : Access) :
    execUnmapped ra a s = unmappedRelease ra a s := by
  simp only [execUnmapped, h]

theorem execUnmapped_debug {s : State} (h : s.cfg.build = .debug) (ra : Half) (a : Access) :
    execUnmapped ra a s = .fault (.unmappedRegister ra (accessIsWrite a)) := by
  simp only [execUnmapped, h]

/-- Settles O22, build by build. -/
theorem unmappedRegisterAccess : Obligations.UnmappedRegisterAccess := fun ra d s =>
  ⟨fun hrelease =>
    ⟨⟨_, execUnmapped_release hrelease ra .read, rfl, rfl, sameState_refl s⟩,
      ⟨_, execUnmapped_release hrelease ra (.write d), rfl, sameState_refl s⟩⟩,
    fun hdebug => ⟨execUnmapped_debug hdebug ra .read, execUnmapped_debug hdebug ra (.write d)⟩⟩

/-! ## What every register access keeps (R141, 60_exceptions R449) -/

/-- What a register write keeps. -/
structure WriteFrame (s t : State) : Prop where
  ram : SameRam s t
  half : t.engine.irqstat.half = s.engine.irqstat.half
  log : t.engine.log = s.engine.log

/-- What a register read keeps, and the one event it records. -/
structure ReadFrame (s t : State) : Prop where
  ram : SameRam s t
  irqstat : t.engine.irqstat = s.engine.irqstat
  cores : ∀ c, t.core c = s.core c
  spdif : t.spdif = s.spdif
  runAcc : t.runAcc = s.runAcc
  log : ∃ d, t.engine.log = .readData d :: s.engine.log

theorem writeFrame_of_engine {s t : State} (h : t.engine = s.engine) : WriteFrame s t :=
  ⟨fun _ => by rw [h], by rw [h], by rw [h]⟩

theorem writeFrame_updCore (s : State) (c : CoreId) (f : Core → Core) : WriteFrame s (s.updCore c f) :=
  ⟨fun _ => by simp, by simp, by simp⟩

theorem writeFrame_writeAttr (s : State) (c : CoreId) (d : Half) : WriteFrame s (writeAttr c d s) := by
  cases hbit : d.getLsbD 6 with
  | true =>
    rw [writeAttr_of_enabled hbit]
    exact writeFrame_updCore ..
  | false =>
    rw [writeAttr_of_disabled hbit]
    exact ⟨fun _ => by simp, by simp, by simp⟩

theorem readFrame_emit (s : State) (d : Half) : ReadFrame s (s.emit (.readData d)) :=
  ⟨fun _ => rfl, rfl, state_emit_core s _, rfl, rfl, d, rfl⟩

/-- A read of a mapped register returns a value. -/
theorem exec_read {i : Instr} (haccess : accessOf i = some .read) (hmapped : ∀ ra, i ≠ .unmapped ra .read)
    (s : State) : ∃ d, exec i s = returnRead s d := by
  cases i with
  | run | runDma | dmaWr | dmaRd | reset => cases haccess
  | unmapped ra => cases haccess; exact absurd rfl (hmapped ra)
  -- the mapped registers
  | _ => cases haccess; exact ⟨_, rfl⟩

/-- A write of a mapped register completes, sorted by what it touches. -/
theorem exec_write {i : Instr} {d : Half} (haccess : accessOf i = some (.write d))
    (hmapped : ∀ ra, i ≠ .unmapped ra (.write d)) (s : State) :
    ∃ t, exec i s = .next t ∧ WriteFrame s t ∧ t.fault = s.fault := by
  cases i with
  | run | runDma | dmaWr | dmaRd | reset => cases haccess
  | unmapped ra => cases haccess; exact absurd rfl (hmapped ra)
  | attr c => cases haccess; exact ⟨_, rfl, writeFrame_writeAttr s c d, writeAttr_fault c d s⟩
  | envx | volxl | volxr | naxH | naxL | statx | mvolxl | mvolxr | irqstat | spdifOut | spdifMode | spdifMedia =>
    cases haccess
    exact ⟨_, rfl, writeFrame_of_engine rfl, rfl⟩
  -- the registers that write to their core alone
  | _ => cases haccess; exact ⟨_, rfl, writeFrame_updCore s _ _, rfl⟩

/-- An unmapped access completes in the release build alone (60_exceptions R447). -/
theorem unmappedRelease_of_execUnmapped {s t : State} {ra : Half} {a : Access} (h : execUnmapped ra a s = .next t) :
    unmappedRelease ra a s = .next t := by
  cases hbuild : s.cfg.build with
  | release => rwa [execUnmapped_release hbuild] at h
  | debug =>
    rw [execUnmapped_debug hbuild] at h
    cases h

theorem readFrame_of_exec {i : Instr} {s t : State} (haccess : accessOf i = some .read) (h : exec i s = .next t) :
    ReadFrame s t ∧ ((∀ ra, i ≠ .unmapped ra .read) → t.fault = s.fault) := by
  by_cases hmapped : ∀ ra, i ≠ .unmapped ra .read
  · obtain ⟨d, hread⟩ := exec_read haccess hmapped s
    cases hread.symm.trans h
    exact ⟨readFrame_emit s d, fun _ => rfl⟩
  · obtain ⟨ra, rfl⟩ : ∃ ra, i = .unmapped ra .read := by simpa using hmapped
    cases unmappedRelease_of_execUnmapped h
    obtain ⟨ram, irqstat, cores, spdif, runAcc, log⟩ := readFrame_emit (recordUnmapped ra false s) 0
    exact ⟨⟨ram, irqstat, cores, spdif, runAcc, log⟩, fun h => absurd h hmapped⟩

theorem writeFrame_of_exec {i : Instr} {d : Half} {s t : State} (haccess : accessOf i = some (.write d))
    (h : exec i s = .next t) : WriteFrame s t ∧ ((∀ ra, i ≠ .unmapped ra (.write d)) → t.fault = s.fault) := by
  by_cases hmapped : ∀ ra, i ≠ .unmapped ra (.write d)
  · obtain ⟨t', hwrite, frame, fault⟩ := exec_write haccess hmapped s
    cases hwrite.symm.trans h
    exact ⟨frame, fun _ => fault⟩
  · obtain ⟨ra, rfl⟩ : ∃ ra, i = .unmapped ra (.write d) := by simpa using hmapped
    cases unmappedRelease_of_execUnmapped h
    exact ⟨writeFrame_of_engine rfl, fun h => absurd h hmapped⟩

/-- A mapped address decodes to its register: an `UNMAPPED` there would not be well formed. -/
theorem decodeRegister_ne_unmapped {a : Half} {acc : Access}
    (h : (registerAt (a &&& 0x07FE).toNat acc).isSome = true) (ra : Half) :
    decodeRegister a acc ≠ .unmapped ra acc := by
  intro hdec
  obtain ⟨hwf, hword⟩ := isAccessAt_decodeRegister a acc
  rw [hdec] at hwf hword
  have hra : ra = a &&& 0x07FE := by
    have hwords : registerWord ra.toNat acc = registerWord (a &&& 0x07FE).toNat acc := hword
    have haddr := congrArg wordAddress hwords
    cases acc with
    | read => simpa only [registerWord_read, wordAddress_packWord] using haddr
    | write d => simpa only [registerWord_write, wordAddress_packWord] using haddr
  rw [hra, wellFormed_unmapped_iff] at hwf
  rw [hwf] at h
  cases h

/-- Settles O24: the decoder hands the access on, and each access keeps its frame. -/
theorem registerAccessesRaiseNoSignal : Obligations.RegisterAccessesRaiseNoSignal := by
  refine fun a s t => ⟨fun d hexec => ?_, fun hexec => ?_⟩
  · obtain ⟨⟨ram, half, log⟩, fault⟩ := writeFrame_of_exec (accessOf_decodeRegister a (.write d)) hexec
    exact ⟨ram, half, log, fun hmapped => fault (decodeRegister_ne_unmapped hmapped)⟩
  · obtain ⟨⟨ram, irqstat, cores, spdif, runAcc, log⟩, fault⟩ :=
      readFrame_of_exec (accessOf_decodeRegister a .read) hexec
    exact ⟨ram, irqstat, cores, spdif, runAcc, log, fun hmapped => fault (decodeRegister_ne_unmapped hmapped)⟩

end Sys2Proof.Machine

/-! # Envelopes and volume sweeps (41_envelope)

One step is one equation on the fixed-point number `level · 2^F + frac` (`envStepFixed_eq`). The rates are read out of their registers bit by bit; with these, the tick's cases follow the phase, an attack adds to the number, and a release takes at least a fixed drop off it. -/

namespace Sys2Proof.Machine

/-! ## One step (R223, R224) -/

/-- R224 (a): a rise along the exponential curve is slowed by two shift steps above 0x6000. -/
theorem effectiveShift_eq (r : Rate) (level : Int) :
    r.effectiveShift level = r.shift + if r.exp = true ∧ r.dec = false ∧ 0x6000 < level then 2 else 0 := by
  simp only [Rate.effectiveShift, Bool.and_eq_true, Bool.not_eq_true', decide_eq_true_eq, and_assoc]
  split <;> rfl

theorem effectiveShift_of_falling {r : Rate} (h : r.dec = true) (level : Int) : r.effectiveShift level = r.shift := by
  simp [effectiveShift_eq, h]

/-- R224 (b): a fall along the exponential curve is scaled by the level. -/
theorem stepSize_eq (r : Rate) (level : Int) :
    r.stepSize level =
      if r.exp = true ∧ r.dec = true then r.stepBase * 2 ^ (11 - r.effectiveShift level) * level / 2 ^ 15
      else r.stepBase * 2 ^ (11 - r.effectiveShift level) := by
  simp only [Rate.stepSize, asr, Bool.and_eq_true]

theorem envStepFixed_eq (F : Nat) (r : Rate) (level : Int) (frac : Nat) :
    envStepFixed F r level frac =
      max 0 (min (level * 2 ^ F + frac + r.stepSize level * 2 ^ (F - (r.effectiveShift level - 11)))
        (0x7FFF * 2 ^ F)) := by
  simp only [envStepFixed, clamp, min_comm]

/-- The level and the fraction after a step are the quotient and the remainder of the fixed-point number. -/
theorem envStep_eq_div_mod (F : Nat) (r : Rate) (level : Half) (frac : Nat) :
    (envStep F r level frac).1.toInt = envStepFixed F r level.toInt frac / 2 ^ F ∧
      ((envStep F r level frac).2 : Int) = envStepFixed F r level.toInt frac % 2 ^ F := by
  obtain ⟨hsum, -, -, hfrac⟩ := envStep_spec F r level frac
  have hpos : (0 : Int) < 2 ^ F := Int.pow_pos (by decide)
  rw [Int.add_comm, Int.mul_comm] at hsum
  obtain ⟨hdiv, hmod⟩ := (Int.ediv_emod_unique hpos).2 ⟨hsum, Int.natCast_nonneg _, by exact_mod_cast hfrac⟩
  exact ⟨hdiv.symm, hmod.symm⟩

/-- Settles O27: the statement is the step's equation written out. -/
theorem envelopeStepFormula : Obligations.EnvelopeStepFormula := by
  intro F shift stepBase exp dec level frac hF hshift _ se s0 st fp r
  obtain ⟨-, hlevel0, hlevel1, hfrac⟩ := envStep_spec F ⟨shift, stepBase, exp, dec⟩ level frac
  obtain ⟨hdiv, hmod⟩ := envStep_eq_div_mod F ⟨shift, stepBase, exp, dec⟩ level frac
  have hfp : envStepFixed F ⟨shift, stepBase, exp, dec⟩ level.toInt frac = fp := by
    rw [envStepFixed_eq, stepSize_eq, effectiveShift_eq]
  have hse : se ≤ shift + 2 :=
    (effectiveShift_eq _ _).symm.trans_le (effectiveShift_le ⟨shift, stepBase, exp, dec⟩ level.toInt)
  exact ⟨by omega, hfp ▸ hdiv, hfp ▸ hmod, hlevel0, hlevel1, hfrac⟩

/-! ## The rates in the registers (R221, R240) -/

theorem bitField_of_eq_extractLsb' (f : BitField) (r : Half) :
    f.of r = (r.extractLsb' f.lo (f.hi - f.lo + 1)).toNat := by
  rw [BitVec.extractLsb'_toNat, Nat.shiftRight_eq_div_pow]
  rfl

theorem attackRate_eq (a1 : Half) :
    attackRate a1 = ⟨(a1.extractLsb' 10 5).toNat, 7 - (a1.extractLsb' 8 2).toNat, a1.getLsbD 15, false⟩ := by
  rw [attackRate, bitField_of_eq_extractLsb', bitField_of_eq_extractLsb', attackExp, isSet_bit]
  rfl

theorem decayRate_eq (a1 : Half) : decayRate a1 = ⟨(a1.extractLsb' 4 4).toNat, -8, true, true⟩ := by
  rw [decayRate, bitField_of_eq_extractLsb']
  rfl

theorem sustainRate_eq (a2 : Half) :
    sustainRate a2 = ⟨(a2.extractLsb' 8 5).toNat,
      if a2.getLsbD 14 = true then -8 + (a2.extractLsb' 6 2).toNat else 7 - (a2.extractLsb' 6 2).toNat,
      a2.getLsbD 15, a2.getLsbD 14⟩ := by
  rw [sustainRate, bitField_of_eq_extractLsb', bitField_of_eq_extractLsb', sustainExp, isSet_bit, sustainDec, isSet_bit]
  rfl

theorem releaseRate_eq (a2 : Half) :
    releaseRate a2 = ⟨(a2.extractLsb' 0 5).toNat, -8, a2.getLsbD 5, true⟩ := by
  rw [releaseRate, bitField_of_eq_extractLsb', releaseExp, isSet_bit]
  rfl

theorem sweepRate_eq (reg : Half) :
    sweepRate reg = ⟨(reg.extractLsb' 2 5).toNat,
      if reg.getLsbD 13 = true then -8 + (reg.extractLsb' 0 2).toNat else 7 - (reg.extractLsb' 0 2).toNat,
      reg.getLsbD 14, reg.getLsbD 13⟩ := by
  rw [sweepRate, bitField_of_eq_extractLsb', bitField_of_eq_extractLsb', volSwExp, isSet_bit, volSwDec, isSet_bit]
  rfl

/-! ## One tick, phase by phase (R226, R240) -/

theorem envTick_of_stopped {e : Envelope} (h : e.phase = .stopped) (F : Nat) (a1 a2 : Half) :
    envTick F a1 a2 e = (e, false) := by
  simp only [envTick, h]

theorem envTick_of_attack {e : Envelope} (h : e.phase = .attack) (F : Nat) (a1 a2 : Half) :
    envTick F a1 a2 e =
      if 0x7FFF ≤ e.level.toInt then ({ e with phase := .decay }, true) else (e.move F (attackRate a1), true) := by
  simp only [envTick, h]

theorem envTick_of_decay {e : Envelope} (h : e.phase = .decay) (F : Nat) (a1 a2 : Half) :
    envTick F a1 a2 e =
      if e.level.toInt / 2 ^ 11 ≤ (a1.extractLsb' 0 4).toNat then ({ e with phase := .sustain }, true)
      else (e.move F (decayRate a1), true) := by
  simp only [envTick, h, asr, bitField_of_eq_extractLsb']
  rfl

theorem envTick_of_sustain {e : Envelope} (h : e.phase = .sustain) (F : Nat) (a1 a2 : Half) :
    envTick F a1 a2 e = (e.move F (sustainRate a2), true) := by
  simp only [envTick, h]

theorem envTick_of_release {e : Envelope} (h : e.phase = .release) (F : Nat) (a1 a2 : Half) :
    envTick F a1 a2 e =
      if e.level = 0 then ({ e with phase := .stopped, frac := 0 }, false)
      else (e.move F (releaseRate a2), true) := by
  simp only [envTick, h]

/-- Settles O28, phase by phase, with each rate read from its register. -/
theorem envelopeTickPhases : Obligations.EnvelopeTickPhases := by
  intro F a1 a2 e moved field
  refine ⟨fun h => envTick_of_stopped h F a1 a2, fun h => ?_, fun h => ?_, fun h => ?_, fun h => ?_⟩
  · rw [envTick_of_attack h, attackRate_eq]; rfl
  · rw [envTick_of_decay h, decayRate_eq]; rfl
  · rw [envTick_of_sustain h, sustainRate_eq]; rfl
  · rw [envTick_of_release h, releaseRate_eq]; rfl

theorem volTick_of_fixed {u : VolUnit} (h : u.reg.getLsbD 15 = false) (F : Nat) : volTick F u = u := by
  rw [volTick, volSweep, isSet_bit, h]
  rfl

theorem volTick_of_sweep {u : VolUnit} (h : u.reg.getLsbD 15 = true) (F : Nat) :
    volTick F u = ⟨u.reg, (envStep F (sweepRate u.reg) u.level u.frac).1,
      (envStep F (sweepRate u.reg) u.level u.frac).2⟩ := by
  rw [volTick, volSweep, isSet_bit, h]
  rfl

/-- Settles O31: the sweep is one step at the register's rate, and every step lands in range. -/
theorem volumeSweepTick : Obligations.VolumeSweepTick := by
  intro F u
  refine ⟨fun h => volTick_of_fixed h F, fun h => ?_⟩
  rw [volTick_of_sweep h, sweepRate_eq]
  obtain ⟨-, hlevel0, hlevel1, -⟩ := envStep_spec F (sweepRate u.reg) u.level u.frac
  rw [sweepRate_eq] at hlevel0 hlevel1
  exact ⟨rfl, hlevel0, hlevel1⟩

/-! ## Attack never falls (R235 (a)) -/

theorem attackRate_stepSize_nonneg (a1 : Half) (level : Int) : 0 ≤ (attackRate a1).stepSize level := by
  have hstep : (a1.extractLsb' 8 2).toNat < 4 := (a1.extractLsb' 8 2).isLt
  have hbase : 0 ≤ (attackRate a1).stepBase := by
    rw [attackRate_eq]
    show (0 : Int) ≤ 7 - (a1.extractLsb' 8 2).toNat
    omega
  rw [stepSize_eq, if_neg (fun h => Bool.false_ne_true h.2)]
  exact Int.mul_nonneg hbase (Int.pow_nonneg (by decide))

/-- A step that adds keeps the level or raises it: the upper clamp is not below any level. -/
theorem envStep_level_le {F : Nat} {r : Rate} {level : Half} (h : 0 ≤ r.stepSize level.toInt) (frac : Nat) :
    level.toInt ≤ (envStep F r level frac).1.toInt := by
  have hpos : (0 : Int) < 2 ^ F := Int.pow_pos (by decide)
  have hadded : 0 ≤ r.stepSize level.toInt * 2 ^ (F - (r.effectiveShift level.toInt - 11)) :=
    Int.mul_nonneg h (Int.pow_nonneg (by decide))
  have hmax : level.toInt * 2 ^ F ≤ 0x7FFF * 2 ^ F :=
    Int.mul_le_mul_of_nonneg_right (Int.le_of_lt_add_one (half_toInt_lt level)) hpos.le
  rw [(envStep_eq_div_mod F r level frac).1, Int.le_ediv_iff_mul_le hpos, envStepFixed_eq]
  omega

/-- Settles O29: an attack either turns to Decay with its level kept, or takes a step that adds. -/
theorem attackNeverFalls : Obligations.AttackNeverFalls := by
  intro F a1 a2 e _ hphase _
  rw [envTick_of_attack hphase]
  split
  · exact ⟨le_rfl, .inr ⟨rfl, rfl⟩⟩
  · exact ⟨envStep_level_le (attackRate_stepSize_nonneg a1 _) _, .inl hphase⟩

/-! ## Release ends (R235 (b)) -/

/-- The fixed-point number an envelope stands at: what `envStepFixed` adds its step to. -/
def Envelope.fixed (F : Nat) (e : Envelope) : Int := e.level.toInt * 2 ^ F + e.frac

theorem envelope_move_fixed (F : Nat) (r : Rate) (e : Envelope) :
    (e.move F r).fixed F =
      max 0 (min (e.fixed F + r.stepSize e.level.toInt * 2 ^ (F - (r.effectiveShift e.level.toInt - 11)))
        (0x7FFF * 2 ^ F)) :=
  (envStep_spec F r e.level e.frac).1.trans (envStepFixed_eq F r _ _)

theorem envelope_level_eq_zero_of_fixed_lt {F : Nat} {e : Envelope} (hlevel : 0 ≤ e.level.toInt)
    (h : e.fixed F < 2 ^ F) : e.level = 0 := by
  have hpos : (0 : Int) < 2 ^ F := Int.pow_pos (by decide)
  have hlt : e.level.toInt < 1 :=
    Int.lt_of_mul_lt_mul_right (a := 2 ^ F) (by unfold Envelope.fixed at h; omega) hpos.le
  exact BitVec.eq_of_toInt_eq (by simpa using (show e.level.toInt = 0 by omega))

/-- What a release at a rate takes at least off the fixed-point number in one tick, from any level above 0. -/
def Rate.drop (F : Nat) (r : Rate) : Nat :=
  (if r.exp = true then 1 else 8 * 2 ^ (11 - r.shift)) * 2 ^ (F - (r.shift - 11))

/-- A falling exponential step from above 0 is at least 1: the shift rounds toward minus infinity. -/
theorem releaseRate_stepSize_le (a2 : Half) {level : Int} (h : 0 < level) :
    (releaseRate a2).stepSize level ≤
      -(if (releaseRate a2).exp = true then 1 else 8 * 2 ^ (11 - (releaseRate a2).shift)) := by
  have hscaled : (0 : Int) < 2 ^ (11 - (releaseRate a2).shift) := Int.pow_pos (by decide)
  rw [stepSize_eq, effectiveShift_of_falling rfl, show (releaseRate a2).stepBase = -8 from rfl,
    show (releaseRate a2).dec = true from rfl]
  cases (releaseRate a2).exp with
  | true =>
    have hneg : -8 * 2 ^ (11 - (releaseRate a2).shift) * level < 0 := Int.mul_neg_of_neg_of_pos (by omega) h
    have := Int.ediv_neg_of_neg_of_pos hneg (b := 2 ^ 15) (by decide)
    simp only [and_self, if_true]
    omega
  | false =>
    simp

theorem releaseRate_step_le_neg_drop (F : Nat) (a2 : Half) {level : Int} (h : 0 < level) :
    (releaseRate a2).stepSize level * 2 ^ (F - ((releaseRate a2).effectiveShift level - 11)) ≤
      -((releaseRate a2).drop F : Int) := by
  rw [effectiveShift_of_falling rfl, Rate.drop]
  push_cast
  rw [← Int.neg_mul]
  exact Int.mul_le_mul_of_nonneg_right (releaseRate_stepSize_le a2 h) (Int.pow_nonneg (by decide))

theorem envTicks_of_stopped (F : Nat) (a1 a2 : Half) (n : Nat) {e : Envelope} (h : e.phase = .stopped) :
    envTicks F a1 a2 n e = e := by
  induction n with
  | zero => rfl
  | succ n ih => rw [envTicks, envTick_of_stopped h, ih]

/-- A release that stands less than `n` drops above the last whole level is over after `n + 1` ticks. -/
theorem envTicks_release {F : Nat} {a1 a2 : Half} {n : Nat} {e : Envelope} (hphase : e.phase = .release)
    (hlevel : 0 ≤ e.level.toInt) (h : e.fixed F < 2 ^ F + n * (releaseRate a2).drop F) :
    (envTicks F a1 a2 (n + 1) e).phase = .stopped ∧ (envTicks F a1 a2 (n + 1) e).level = 0 := by
  induction n generalizing e with
  | zero =>
    have hzero : e.level = 0 := envelope_level_eq_zero_of_fixed_lt hlevel (by simpa using h)
    simp only [envTicks, envTick_of_release hphase, hzero, if_true, and_self]
  | succ n ih =>
    rw [envTicks, envTick_of_release hphase]
    split
    next hzero =>
      rw [envTicks_of_stopped _ _ _ _ rfl]
      exact ⟨rfl, hzero⟩
    next hne =>
      have hpos : 0 < e.level.toInt := by
        have : e.level.toInt ≠ 0 := fun h0 => hne (BitVec.eq_of_toInt_eq (by simpa using h0))
        omega
      refine ih hphase (envStep_spec F _ e.level e.frac).2.1 ?_
      have hdrop := releaseRate_step_le_neg_drop F a2 hpos
      have hpow : (0 : Int) < 2 ^ F := Int.pow_pos (by decide)
      have hrest : (0 : Int) ≤ n * (releaseRate a2).drop F := by positivity
      rw [Nat.cast_succ, add_mul, one_mul] at h
      rw [envelope_move_fixed]
      omega

/-- R235: the number of ticks after which a release from a level stands below level 1. -/
def Rate.releaseBound (r : Rate) (level frac : Nat) : Nat :=
  if r.exp = true then level * 2 ^ (r.shift - 11) + frac
  else if 11 ≤ r.shift then (level * 2 ^ (r.shift - 11) + 7) / 8
  else (level + 8 * 2 ^ (11 - r.shift) - 1) / (8 * 2 ^ (11 - r.shift))

/-- The drops of the rule's number of ticks add up to the whole level. -/
theorem level_le_releaseBound_mul_drop {F : Nat} {r : Rate} (hF : r.shift - 11 ≤ F) (level frac : Nat) :
    level * 2 ^ F ≤ r.releaseBound level frac * r.drop F := by
  have hpow : 2 ^ (r.shift - 11) * 2 ^ (F - (r.shift - 11)) = 2 ^ F := by rw [← Nat.pow_add, Nat.add_sub_cancel' hF]
  suffices hunits : level * 2 ^ (r.shift - 11) ≤
      r.releaseBound level frac * if r.exp = true then 1 else 8 * 2 ^ (11 - r.shift) by
    rw [← hpow, ← Nat.mul_assoc, Rate.drop, ← Nat.mul_assoc]
    exact Nat.mul_le_mul_right _ hunits
  unfold Rate.releaseBound
  split
  next => omega
  next =>
    split
    next hslow =>
      rw [Nat.sub_eq_zero_of_le hslow]
      omega
    next hfast =>
      rw [Nat.sub_eq_zero_of_le (by omega : r.shift ≤ 11), Nat.pow_zero, Nat.mul_one, Nat.mul_comm]
      exact le_smul_ceilDiv (by positivity : 0 < 8 * 2 ^ (11 - r.shift))

/-- Settles O30: the rule's number of ticks takes the level off, and one more stops the voice. -/
theorem releaseEndsInBoundedTime : Obligations.ReleaseEndsInBoundedTime := by
  intro F a1 a2 e hF hphase hlevel hfrac shift level bound
  have hbound : bound = (releaseRate a2).releaseBound level e.frac := by
    rw [releaseRate_eq]
    rfl
  have hdrops := level_le_releaseBound_mul_drop (F := F) (r := releaseRate a2)
    (by have := releaseRate_shift_lt a2; omega) level e.frac
  rw [← hbound] at hdrops
  have htoInt : e.level.toInt = level := BitVec.toInt_eq_toNat_of_msb (by simpa [BitVec.msb_eq_toInt] using hlevel)
  refine envTicks_release hphase hlevel ?_
  rw [Envelope.fixed, htoInt]
  exact_mod_cast (by omega : level * 2 ^ F + e.frac < 2 ^ F + bound * (releaseRate a2).drop F)

end Sys2Proof.Machine

/-! # The ADPCM decoder and the key events (42_adpcm)

A data word is four samples, each determined by the one before it (`decodeWord_of_samples`). A decode step is one equation on its own voice (`decodedVoice_of_lt`), whose parts, the header, the loop start, the data address and the samples, are named below. A key event changes one voice and that voice's bit of `ENDX`, so the loops of step 2 act on each voice alone. -/

namespace Sys2Proof.Machine

/-! ## One data word (R264, R265) -/

/-- R264: a nibble stands in bits 15..12 of its word. -/
theorem toInt_append_zero12 (nib : BitVec 4) : (nib ++ 0#12).toInt = nib.toInt * 2 ^ 12 := by
  rw [BitVec.toInt_append, if_neg (by decide), Int.mul_comm]
  simp

theorem adpcmShift_eq (hdr : Half) : adpcmShift hdr = min (hdr.extractLsb' 0 4).toNat 12 := by
  rw [adpcmShift, bitField_of_eq_extractLsb']
  rfl

theorem adpcmFilter_val (hdr : Half) : (adpcmFilter hdr).val = min (hdr.extractLsb' 4 3).toNat 4 := by
  rw [adpcmFilter, bitField_of_eq_extractLsb']
  exact Nat.mod_eq_of_lt (Nat.lt_succ_of_le (Nat.min_le_right _ _))

theorem adpcmCoefs_eq (cfg : Config) (hdr : Half) :
    adpcmCoefs cfg hdr = cfg.adpcmCoef.toList.getD (min (hdr.extractLsb' 4 3).toNat 4) (0, 0) := by
  rw [← adpcmFilter_val, adpcmCoefs, List.getD_eq_getElem _ _ (by simp)]
  simp

theorem adpcmSample_eq (cfg : Config) (hdr hist1 hist2 : Half) (nib : BitVec 4) :
    adpcmSample cfg hdr hist1 hist2 nib =
      BitVec.ofInt 16 (max (-0x8000) (min 0x7FFF
        (nib.toInt * 2 ^ 12 / 2 ^ min (hdr.extractLsb' 0 4).toNat 12 +
          ((adpcmCoefs cfg hdr).1 * hist1.toInt + (adpcmCoefs cfg hdr).2 * hist2.toInt) / 2 ^ 6))) := by
  rw [adpcmSample, toInt_append_zero12, adpcmShift_eq]
  rfl

/-- A data word decodes to the samples that its nibbles give, each from the two samples before it. -/
theorem decodeWord_of_samples {cfg : Config} {d : Half} {w : Voice} {x0 x1 x2 x3 : Half}
    (h0 : adpcmSample cfg w.hdr w.hist1 w.hist2 (d.extractLsb' 0 4) = x0)
    (h1 : adpcmSample cfg w.hdr x0 w.hist1 (d.extractLsb' 4 4) = x1)
    (h2 : adpcmSample cfg w.hdr x1 x0 (d.extractLsb' 8 4) = x2)
    (h3 : adpcmSample cfg w.hdr x2 x1 (d.extractLsb' 12 4) = x3) :
    decodeWord cfg d w = { w with buf := w.buf ++ [x0, x1, x2, x3], hist1 := x3, hist2 := x2 } := by
  simp only [decodeWord, dataNibbles, List.foldl_cons, List.foldl_nil, decodeNibble, Voice.takeSample, h0, h1, h2, h3,
    List.append_assoc, List.cons_append, List.nil_append]

/-- Settles O34: the four nibbles are the word's fields, and each sample is the formula's. -/
theorem dataWordDecodesToFourSamples : Obligations.DataWordDecodesToFourSamples := by
  intro cfg d w sh f coef sample x0 x1 x2 x3
  have hsample (n : Nat) (h1 h2 : Half) :
      adpcmSample cfg w.hdr h1 h2 (d.extractLsb' (4 * n) 4) = sample n h1 h2 := by
    rw [adpcmSample_eq, adpcmCoefs_eq]
  exact decodeWord_of_samples (hsample 0 _ _) (hsample 1 _ _) (hsample 2 _ _) (hsample 3 _ _)

/-- Without a prediction a zero nibble is a zero sample. -/
theorem adpcmSample_zero {cfg : Config} {hdr : Half} (h : adpcmCoefs cfg hdr = (0, 0)) (hist1 hist2 : Half) :
    adpcmSample cfg hdr hist1 hist2 0#4 = 0 := by
  rw [adpcmSample_eq, h]
  simp

/-- Settles O35: filter 0 predicts nothing, so every nibble of the word is a zero sample. -/
theorem silentDataDecodesToSilence : Obligations.SilentDataDecodesToSilence := by
  intro cfg w hentry hfilter
  have hcoefs : adpcmCoefs cfg w.hdr = (0, 0) := by
    rw [adpcmCoefs_eq, hfilter, List.getD_eq_getElem?_getD]
    exact congrArg (Option.getD · (0, 0)) (List.head?_eq_getElem?.symm.trans hentry)
  exact decodeWord_of_samples (adpcmSample_zero hcoefs _ _) (adpcmSample_zero hcoefs _ _) (adpcmSample_zero hcoefs _ _)
    (adpcmSample_zero hcoefs _ _)

/-! ## The parts of a decode step (R261, R262, R268) -/

theorem atBlockStart_iff (a : RamAddr) : atBlockStart a = true ↔ a.toNat % 8 = 0 := by
  simp [atBlockStart, ← BitVec.toNat_inj]

/-- The header under which a step decodes: a new one at a block boundary, else the voice's. -/
def stepHeader (m : Memory) (w : Voice) : Half := if w.nax.toNat % 8 = 0 then ramRead m w.nax else w.hdr

/-- The loop start after a step: captured with a header that has LoopStart, unless the latch is set. -/
def stepLsa (m : Memory) (w : Voice) : RamAddr :=
  if w.nax.toNat % 8 = 0 ∧ (stepHeader m w).getLsbD 10 = true ∧ w.customLoop = false then w.nax else w.lsa

/-- The address of a step's data word. -/
def stepData (w : Voice) : RamAddr := if w.nax.toNat % 8 = 0 then w.nax + 1 else w.nax

theorem readHeader_eq (m : Memory) (w : Voice) :
    readHeader m w = { w with hdr := stepHeader m w, lsa := stepLsa m w, nax := stepData w } := by
  obtain ⟨hstart, hread⟩ | ⟨hstart, hread⟩ := readHeader_cases m w
  · have hboundary := (atBlockStart_iff _).1 hstart
    have hloop (x : Half) : hdrLoopStart.isSet x = x.getLsbD 10 := isSet_bit 10 x
    rw [hread]
    simp [Voice.latchHeader, Voice.advanceNax, wrapAdd, stepHeader, stepLsa, stepData, hboundary, hloop]
  · have hinside : ¬ w.nax.toNat % 8 = 0 := by simp [← atBlockStart_iff, hstart]
    rw [hread]
    simp [stepHeader, stepLsa, stepData, hinside]

/-- The samples and the history of a step (R264, R266). -/
def stepSamples (cfg : Config) (m : Memory) (w : Voice) : Voice :=
  if w.env.phase = .stopped then w.pushZeros
  else decodeWord cfg (ramRead m (stepData w)) { w with hdr := stepHeader m w }

/-- A data word decodes alike wherever the cursor and the loop start stand. -/
theorem decodeWord_cursor (cfg : Config) (d : Half) (w : Voice) (lsa nax : RamAddr) :
    decodeWord cfg d { w with lsa := lsa, nax := nax } = { decodeWord cfg d w with lsa := lsa, nax := nax } := by
  rw [decodeWord_of_samples (w := w) rfl rfl rfl rfl, decodeWord_of_samples rfl rfl rfl rfl]

theorem decodeBlockWord_eq (cfg : Config) (m : Memory) (w : Voice) :
    decodeBlockWord cfg m w =
      { w with
        hdr := stepHeader m w, lsa := stepLsa m w, nax := stepData w + 1, buf := (stepSamples cfg m w).buf
        hist1 := (stepSamples cfg m w).hist1, hist2 := (stepSamples cfg m w).hist2 } := by
  rw [decodeBlockWord, readHeader_eq, readData, stepSamples]
  by_cases hphase : w.env.phase = .stopped
  · rw [if_pos hphase, if_pos hphase]
    rfl
  · obtain ⟨x0, x1, x2, x3, hword⟩ := decodeWord_spec cfg (ramRead m (stepData w)) { w with hdr := stepHeader m w }
    have hcursor := decodeWord_cursor cfg (ramRead m (stepData w)) { w with hdr := stepHeader m w } (stepLsa m w)
      (stepData w)
    rw [if_neg hphase, if_neg hphase, hcursor, hword]
    rfl

/-- Whether a step consumes the last word of a block with LoopEnd. -/
abbrev StepLoops (m : Memory) (w : Voice) : Prop :=
  (stepData w + 1).toNat % 8 = 0 ∧ (stepHeader m w).getLsbD 8 = true

theorem decodeBlockWord_atLoopEnd (cfg : Config) (m : Memory) (w : Voice) :
    (decodeBlockWord cfg m w).atLoopEnd = decide (StepLoops m w) := by
  have hloop (x : Half) : hdrLoopEnd.isSet x = x.getLsbD 8 := isSet_bit 8 x
  rw [decodeBlockWord_eq, Bool.eq_iff_iff]
  simp only [Voice.atLoopEnd, hloop, Bool.and_eq_true, atBlockStart_iff, decide_eq_true_eq]

/-- R270: a loop end takes the cursor to the loop start, and stops the envelope of a voice that neither repeats nor makes noise. -/
theorem voice_loopEnd_eq (noiseOn : Bool) (w : Voice) :
    w.loopEnd noiseOn =
      { w with
        nax := w.lsa
        env := if w.hdr.getLsbD 9 = false ∧ noiseOn = false then ⟨.stopped, 0, 0⟩ else w.env } := by
  have hrepeat : hdrLoopRepeat.isSet w.hdr = w.hdr.getLsbD 9 := isSet_bit 9 w.hdr
  simp only [Voice.loopEnd, hrepeat, Bool.and_eq_true, Bool.not_eq_true']
  rfl

/-- A step that runs, on its own voice. -/
theorem decodedVoice_of_lt (cfg : Config) (m : Memory) (noiseOn : Bool) {w : Voice} (h : w.buf.length < 16) :
    decodedVoice cfg m noiseOn w =
      { w with
        hdr := stepHeader m w, lsa := stepLsa m w
        nax := if StepLoops m w then stepLsa m w else stepData w + 1
        env := if StepLoops m w ∧ (stepHeader m w).getLsbD 9 = false ∧ noiseOn = false then ⟨.stopped, 0, 0⟩ else w.env
        buf := (stepSamples cfg m w).buf, hist1 := (stepSamples cfg m w).hist1
        hist2 := (stepSamples cfg m w).hist2 } := by
  rw [decodedVoice, if_neg (Nat.not_le.2 h), decodeBlockWord_atLoopEnd, voice_loopEnd_eq, decodeBlockWord_eq]
  by_cases hloops : StepLoops m w
  · obtain ⟨hend, hflag⟩ := hloops
    simp only [StepLoops, hend, hflag, and_self, decide_true, if_true, true_and]
  · simp only [hloops, decide_false, Bool.false_eq_true, if_false, false_and]

theorem stepSamples_buf (cfg : Config) (m : Memory) (w : Voice) :
    ∃ x0 x1 x2 x3, (stepSamples cfg m w).buf = w.buf ++ [x0, x1, x2, x3] := by
  unfold stepSamples
  split
  · exact ⟨0, 0, 0, 0, rfl⟩
  · obtain ⟨x0, x1, x2, x3, hword⟩ := decodeWord_spec cfg (ramRead m (stepData w)) { w with hdr := stepHeader m w }
    exact ⟨x0, x1, x2, x3, by rw [hword]⟩

theorem decodeStep_of_ge (cfg : Config) (m : Memory) {v : VoiceId} {k : Core} (h : 16 ≤ (k.voice v).buf.length) :
    decodeStep cfg m v k = k := if_pos h

theorem decodeStep_buf_of_lt (cfg : Config) (m : Memory) {v : VoiceId} {k : Core} (h : (k.voice v).buf.length < 16) :
    ∃ x0 x1 x2 x3, ((decodeStep cfg m v k).voice v).buf = (k.voice v).buf ++ [x0, x1, x2, x3] := by
  rw [decodeStep_voice_same, decodedVoice_of_lt cfg m _ h]
  exact stepSamples_buf cfg m _

/-- Settles O32: the bound is 15 samples and four more. -/
theorem decodingIsLazyAndBounded : Obligations.DecodingIsLazyAndBounded := by
  intro cfg m v k
  refine ⟨decodeStep_of_ge cfg m, decodeStep_buf_of_lt cfg m, fun v' => decodeStep_voice_other cfg m k, fun hlen => ?_⟩
  obtain hlow | hfull := Nat.lt_or_ge (k.voice v).buf.length 16
  · obtain ⟨x0, x1, x2, x3, hbuf⟩ := decodeStep_buf_of_lt cfg m hlow
    simp only [hbuf, List.length_append, List.length_cons, List.length_nil]
    omega
  · rw [decodeStep_of_ge cfg m hfull]
    omega

/-- A step that runs sets the `ENDX` bit of its own voice exactly at a loop end (R270). -/
theorem decodeStep_endx_of_lt (cfg : Config) (m : Memory) {v : VoiceId} {k : Core} (h : (k.voice v).buf.length < 16)
    (u : VoiceId) :
    (decodeStep cfg m v k).endx.getLsbD u.val =
      (k.endx.getLsbD u.val || decide (StepLoops m (k.voice v) ∧ u.val = v.val)) := by
  by_cases huv : u = v
  · subst huv
    simp only [decodeStep_endx_same, decodeBlockWord_atLoopEnd, h, decide_true, Bool.true_and, and_true]
  · simp only [decodeStep_endx_other cfg m k huv, Fin.val_inj, huv, and_false, decide_false, Bool.or_false]

/-- Settles O33: the clauses are the fields of the step's equation on its own voice. -/
theorem decodeStepControl : Obligations.DecodeStepControl := by
  intro cfg m v k hlen w k' w' boundary hdr lsa data looped
  have hvoice : w' = decodedVoice cfg m (k.non.getLsbD v.val) w := decodeStep_voice_same cfg m v k
  rw [decodedVoice_of_lt cfg m _ hlen] at hvoice
  refine ⟨congrArg Voice.hdr hvoice, congrArg Voice.lsa hvoice, congrArg Voice.nax hvoice, congrArg Voice.env hvoice,
    fun u hu => decodeStep_endx_of_lt cfg m hlen ⟨u, hu⟩, fun hstopped => ?_, fun hactive => ?_, ?_,
    fun v' => decodeStep_voice_other cfg m k, decodeStep_core cfg m v k⟩
  · have hsamples : stepSamples cfg m w = w.pushZeros := if_pos hstopped
    rw [hvoice, hsamples]
    exact ⟨rfl, rfl, rfl⟩
  · have hsamples : stepSamples cfg m w = decodeWord cfg (ramRead m data) { w with hdr := hdr } := if_neg hactive
    rw [hvoice, hsamples]
    exact ⟨rfl, rfl, rfl⟩
  · rw [hvoice]

/-! ## Key events (R275 to R277) -/

/-- The pass of voice `v` over the pending key-ons. -/
def keyOnPass (v : VoiceId) (k : Core) : Core := if voiceBit k.kon v then keyOn v k else k

/-- The pass of voice `v` over the pending key-offs. -/
def keyOffPass (v : VoiceId) (k : Core) : Core := if voiceBit k.koff v then keyOff v k else k

theorem processKeys_eq (k : Core) :
    processKeys k = { forVoices keyOffPass (forVoices keyOnPass k) with kon := 0, koff := 0 } := rfl

/-- Two cores that differ at most in their voices and in `ENDX`. -/
structure Core.SameBesidesVoices (k k' : Core) : Prop where
  eq : k' = { k with endx := k'.endx, voices := k'.voices }

section SameBesidesVoices

variable {a b c : Core}

theorem Core.SameBesidesVoices.trans (hab : a.SameBesidesVoices b) (hbc : b.SameBesidesVoices c) :
    a.SameBesidesVoices c :=
  ⟨hbc.eq.trans (congrArg (fun k : Core => { k with endx := c.endx, voices := c.voices }) hab.eq)⟩

theorem Core.SameBesidesVoices.kon_eq (h : a.SameBesidesVoices b) : b.kon = a.kon := (congrArg Core.kon h.eq :)

theorem Core.SameBesidesVoices.koff_eq (h : a.SameBesidesVoices b) : b.koff = a.koff := (congrArg Core.koff h.eq :)

end SameBesidesVoices

theorem keyOnPass_sameBesidesVoices (v : VoiceId) (k : Core) : k.SameBesidesVoices (keyOnPass v k) := by
  rw [keyOnPass]
  split <;> exact ⟨rfl⟩

theorem keyOffPass_sameBesidesVoices (v : VoiceId) (k : Core) : k.SameBesidesVoices (keyOffPass v k) := by
  rw [keyOffPass]
  split <;> exact ⟨rfl⟩

theorem forVoices_sameBesidesVoices {f : VoiceId → Core → Core} (h : ∀ v k, Core.SameBesidesVoices k (f v k))
    (k : Core) : k.SameBesidesVoices (forVoices f k) :=
  forVoices_induct (P := k.SameBesidesVoices) (fun v k' hk => hk.trans (h v k')) ⟨rfl⟩

theorem keyOnPass_voice_same (v : VoiceId) (k : Core) :
    (keyOnPass v k).voice v = if k.kon.getLsbD v.val then (k.voice v).keyOn else k.voice v := by
  rw [keyOnPass, voiceBit]
  split
  · rw [keyOn, core_clearEndx_voice, core_updVoice_voice_same]
  · rfl

theorem keyOnPass_voice_other {v v' : VoiceId} (k : Core) (h : v' ≠ v) : (keyOnPass v k).voice v' = k.voice v' := by
  rw [keyOnPass]
  split
  · rw [keyOn, core_clearEndx_voice, core_updVoice_voice_other _ _ h]
  · rfl

theorem keyOnPass_endx (v u : VoiceId) (k : Core) :
    (keyOnPass v k).endx.getLsbD u.val = (k.endx.getLsbD u.val && !(k.kon.getLsbD v.val && decide (u = v))) := by
  rw [keyOnPass, voiceBit]
  cases hbit : k.kon.getLsbD v.val with
  | false => simp
  | true =>
    simp only [if_true, keyOn, Core.clearEndx, core_updVoice_endx, BitVec.getLsbD_and, BitVec.getLsbD_not,
      voiceMaskBit_getLsbD, u.isLt, decide_true, Bool.true_and]

theorem keyOffPass_voice_same (v : VoiceId) (k : Core) :
    (keyOffPass v k).voice v =
      if k.koff.getLsbD v.val then { k.voice v with env := (k.voice v).env.release } else k.voice v := by
  rw [keyOffPass, voiceBit]
  split
  · rw [keyOff, core_updVoice_voice_same]
  · rfl

theorem keyOffPass_voice_other {v v' : VoiceId} (k : Core) (h : v' ≠ v) : (keyOffPass v k).voice v' = k.voice v' := by
  rw [keyOffPass]
  split
  · rw [keyOff, core_updVoice_voice_other _ _ h]
  · rfl

theorem keyOffPass_endx (v : VoiceId) (k : Core) : (keyOffPass v k).endx = k.endx := by
  rw [keyOffPass]
  split <;> rfl

theorem forVoices_keyOnPass_voice (k : Core) (v : VoiceId) :
    (forVoices keyOnPass k).voice v = if k.kon.getLsbD v.val then (k.voice v).keyOn else k.voice v :=
  forVoices_voice (g := fun v w => if k.kon.getLsbD v.val then w.keyOn else w) (P := k.SameBesidesVoices)
    (fun v k' hk => hk.trans (keyOnPass_sameBesidesVoices v k'))
    (fun v k' hk => by rw [keyOnPass_voice_same, hk.kon_eq])
    (fun _ _ k' _ h => keyOnPass_voice_other k' h) ⟨rfl⟩ v

theorem forVoices_keyOffPass_voice (k : Core) (v : VoiceId) :
    (forVoices keyOffPass k).voice v =
      if k.koff.getLsbD v.val then { k.voice v with env := (k.voice v).env.release } else k.voice v :=
  forVoices_voice (g := fun v w => if k.koff.getLsbD v.val then { w with env := w.env.release } else w)
    (P := k.SameBesidesVoices) (fun v k' hk => hk.trans (keyOffPass_sameBesidesVoices v k'))
    (fun v k' hk => by rw [keyOffPass_voice_same, hk.koff_eq])
    (fun _ _ k' _ h => keyOffPass_voice_other k' h) ⟨rfl⟩ v

/-- Step 2 on one voice: its key-on, then its key-off. -/
theorem processKeys_voice (k : Core) (v : VoiceId) :
    (processKeys k).voice v =
      let w := if k.kon.getLsbD v.val then (k.voice v).keyOn else k.voice v
      if k.koff.getLsbD v.val then { w with env := w.env.release } else w := by
  have hkoff : (forVoices keyOnPass k).koff = k.koff :=
    (forVoices_sameBesidesVoices keyOnPass_sameBesidesVoices k).koff_eq
  calc
    (processKeys k).voice v = (forVoices keyOffPass (forVoices keyOnPass k)).voice v := by
      rw [processKeys_eq]
      rfl
    _ = _ := by rw [forVoices_keyOffPass_voice, hkoff, forVoices_keyOnPass_voice]

/-- Step 2 on one bit of `ENDX`: only a key-on clears it. -/
theorem processKeys_endx (k : Core) (v : VoiceId) :
    (processKeys k).endx.getLsbD v.val = (k.endx.getLsbD v.val && !k.kon.getLsbD v.val) := by
  have hon := forVoices_observe (f := keyOnPass) (fun v k => (k.endx.getLsbD v.val, k.kon.getLsbD v.val))
    (fun _ x => (x.1 && !x.2, x.2))
    (fun v k => by simp only [keyOnPass_endx, (keyOnPass_sameBesidesVoices v k).kon_eq, decide_true, Bool.and_true])
    (fun v v' k h => by
      simp only [keyOnPass_endx, (keyOnPass_sameBesidesVoices v k).kon_eq, h, decide_false, Bool.and_false,
        Bool.not_false, Bool.and_true]) k v
  calc
    (processKeys k).endx.getLsbD v.val = (forVoices keyOffPass (forVoices keyOnPass k)).endx.getLsbD v.val := by
      rw [processKeys_eq]
    _ = (forVoices keyOnPass k).endx.getLsbD v.val := by rw [forVoices_field Core.endx keyOffPass_endx]
    _ = _ := congrArg Prod.fst hon

theorem processKeys_core (k : Core) :
    processKeys k =
      { k with kon := 0, koff := 0, endx := (processKeys k).endx, voices := (processKeys k).voices } := by
  have hsame : k.SameBesidesVoices (forVoices keyOffPass (forVoices keyOnPass k)) :=
    (forVoices_sameBesidesVoices keyOnPass_sameBesidesVoices k).trans
      (forVoices_sameBesidesVoices keyOffPass_sameBesidesVoices _)
  exact (processKeys_eq k).trans (congrArg (fun k' : Core => { k' with kon := 0, koff := 0 }) hsame.eq)

/-- Settles O36: step 2 acts on each voice as if it were alone. -/
theorem keyEventsOfATick : Obligations.KeyEventsOfATick := by
  intro k v w on off k'
  have hvoice : k'.voice v =
      let restarted := if on then w.keyOn else w
      if off then { restarted with env := restarted.env.release } else restarted := processKeys_voice k v
  refine ⟨fun hon hoff => ?_, fun hon hoff => ?_, fun hon => ?_, processKeys_endx k v, processKeys_core k⟩
  · rw [hvoice, hon, hoff]
    rfl
  · rw [hvoice, hon, hoff]
    rfl
  · rw [hvoice, hon]
    cases hoff : off <;> rfl

end Sys2Proof.Machine

/-! # The pitch counter, the noise generator and the end of a tick (43_interp_pitch_noise)

A counter step is at most 0x3FFF, so a counter below 0x1000 crosses at most four multiples of 0x1000 (`advanceCounter_splits`). The noise register loses bit 15 in a shift, but the parity it takes in gives that bit back (`noiseShift_injective`). Moving the position on is one of two updates of the engine, at a multiple of 0x100 (`advancePosition_of_boundary`) and elsewhere (`advancePosition_of_inside`); from these follow the half bit and the Auto-DMA counters after a tick (`tick_half_eq`, `tick_adma`). -/

namespace Sys2Proof.Machine

/-! ## The pitch counter (R295 to R297) -/

/-- R296: the product is floored and then reduced modulo 2^16, because the step it replaces has 16 bits. -/
theorem modulate_toNat (prevOut step : Half) :
    ((modulate prevOut step).toNat : Int) = step.toInt * (prevOut.toInt + 0x8000) / 2 ^ 15 % 2 ^ 16 := by
  rw [modulate, asr, BitVec.toNat_ofInt]
  omega

theorem voice_prevVoice (v : VoiceId) (k : Core) :
    k.voice (prevVoice v) = k.voices.toList.getD (v.val - 1) Voice.reset := by
  have hlt : v.val - 1 < 24 := by omega
  have hprev : (prevVoice v).val = v.val - 1 := Nat.mod_eq_of_lt hlt
  rw [List.getD_eq_getElem _ _ (by simpa using hlt)]
  simp only [Core.voice, Fin.getElem_fin, hprev, Vector.getElem_toList]

/-- The step of R295 to R297, with the voice before `v` looked up in the list of voices. -/
theorem pitchStep_eq (v : VoiceId) (k : Core) :
    (pitchStep v k : Int) =
      min (if k.pmon.getLsbD v.val = true ∧ 0 < v.val then
          (k.voice v).pitch.toInt * ((k.voices.toList.getD (v.val - 1) Voice.reset).out.toInt + 0x8000) / 2 ^ 15
            % 2 ^ 16
        else ((k.voice v).pitch.toNat : Int)) 0x3FFF := by
  have hmod : (voiceBit k.pmon v && decide (0 < v.val)) = true ↔ k.pmon.getLsbD v.val = true ∧ 0 < v.val := by
    rw [Bool.and_eq_true, decide_eq_true_eq, voiceBit]
  simp only [pitchStep, hmod, Nat.cast_min, apply_ite BitVec.toNat, Nat.cast_ite, modulate_toNat, voice_prevVoice]
  rfl

theorem pitchStep_le (v : VoiceId) (k : Core) : pitchStep v k ≤ 0x3FFF := Nat.min_le_right ..

/-- R295 and R297: counter plus step is the new counter and at most four whole samples. -/
theorem advanceCounter_splits (w : Voice) {step : Nat} (hstep : step ≤ 0x3FFF) :
    ∃ pops : Nat, pops ≤ 4 ∧
      ((w.advanceCounter step).counter.toNat + 0x1000 * pops : Int) = w.counter.toNat + step ∧
      w.advanceCounter step =
        { w with counter := (w.advanceCounter step).counter, buf := w.buf.drop pops } := by
  have hcounter := w.counter.isLt
  have hnew : (w.advanceCounter step).counter.toNat = (w.counter.toNat + step) % 2 ^ 12 := BitVec.toNat_ofNat ..
  exact ⟨(w.counter.toNat + step) / 0x1000, by omega, by omega, rfl⟩

/-- Settles O37: the counter of voice `v` advances by `pitchStep_eq` and splits as `advanceCounter_splits` says. -/
theorem pitchCounterConsumesSamples : Obligations.PitchCounterConsumesSamples := by
  intro v k w prev raw step k' w'
  have hw' : w' = w.advanceCounter (pitchStep v k) := core_updVoice_voice_same ..
  have hstep : step = pitchStep v k := (pitchStep_eq v k).symm
  refine ⟨?_, fun v' hv => core_updVoice_voice_other _ _ hv, rfl⟩
  rw [hw', hstep]
  exact advanceCounter_splits w (pitchStep_le v k)

/-! ## The noise generator (R301, R302) -/

/-- R301: the low two bits of the clock are `ATTR` bits 9..8. -/
theorem noiseStep_of_attr (attr : Half) :
    noiseStep (attrNoiseClock.of attr) = (attr.extractLsb' 8 2).toNat + 4 := by
  rw [noiseStep, bitField_of_eq_extractLsb', BitVec.extractLsb'_toNat, BitVec.extractLsb'_toNat]
  simp only [attrNoiseClock]
  omega

/-- R301: the high four bits of the clock are `ATTR` bits 13..10. -/
theorem noiseReload_of_attr (attr : Half) :
    noiseReload (attrNoiseClock.of attr) = 0x20000 / 2 ^ (attr.extractLsb' 10 4).toNat := by
  have hshift : attrNoiseClock.of attr / 4 = (attr.extractLsb' 10 4).toNat := by
    simp only [BitField.of, attrNoiseClock, BitVec.extractLsb'_toNat, Nat.shiftRight_eq_div_pow]
    omega
  rw [noiseReload, hshift]

theorem noiseTick_timer (clock : Nat) (n : Noise) :
    (noiseTick clock n).timer = noiseRewind clock (noiseRewind clock (n.timer - noiseStep clock)) := rfl

theorem noiseTick_level (clock : Nat) (n : Noise) :
    (noiseTick clock n).level = if n.timer - noiseStep clock < 0 then noiseShift n.level else n.level := rfl

/-- R302: the inverted parity of bits 15, 12, 11 and 10. -/
theorem noiseShift_getLsbD_zero (l : Half) :
    (noiseShift l).getLsbD 0 = !(l.getLsbD 15 != (l.getLsbD 12 != (l.getLsbD 11 != l.getLsbD 10))) := by
  simp only [noiseShift, BitVec.getLsbD_append, noiseParity]
  simp

theorem noiseShift_getLsbD_succ (l : Half) {i : Nat} (hi : i < 15) :
    (noiseShift l).getLsbD (i + 1) = l.getLsbD i := by
  rw [noiseShift, BitVec.getLsbD_append, if_neg (by omega), BitVec.getLsbD_extractLsb']
  simp [hi]

/-- Bits 14..0 stand in the shifted register; with bits 12, 11 and 10 the parity in bit 0 determines bit 15. -/
theorem noiseShift_injective : Function.Injective noiseShift := by
  intro x y h
  have hlow : ∀ i, i < 15 → x.getLsbD i = y.getLsbD i := fun i hi => by
    rw [← noiseShift_getLsbD_succ x hi, h, noiseShift_getLsbD_succ y hi]
  have hparity := congrArg (BitVec.getLsbD · 0) h
  simp only [noiseShift_getLsbD_zero, hlow 12 (by decide), hlow 11 (by decide), hlow 10 (by decide)] at hparity
  have htop : x.getLsbD 15 = y.getLsbD 15 := by simpa using hparity
  refine BitVec.eq_of_getLsbD_eq fun i hi => ?_
  obtain hi' | rfl := Nat.lt_succ_iff_lt_or_eq.1 hi
  · exact hlow i hi'
  · exact htop

/-- Settles O38: step and reload are read from `ATTR` (`noiseStep_of_attr`, `noiseReload_of_attr`), and the shift is described bit by bit. -/
theorem noiseGeneratorTick : Obligations.NoiseGeneratorTick := by
  refine ⟨?_, fun x y h => noiseShift_injective h⟩
  intro k nstep reload t1 t2 t3 l
  have hstep : (noiseStep (attrNoiseClock.of k.attr) : Int) = nstep := by
    rw [noiseStep_of_attr]
    rfl
  have hreload : (noiseReload (attrNoiseClock.of k.attr) : Int) = reload := by
    rw [noiseReload_of_attr]
    push_cast
    rfl
  have htimer : k.noiseTick.noise.timer = t3 := by
    rw [Core.noiseTick, noiseTick_timer, noiseRewind, noiseRewind, hstep, hreload]
  have hlevel : k.noiseTick.noise.level = if t1 < 0 then noiseShift l else l := by
    rw [Core.noiseTick, noiseTick_level, hstep]
  refine ⟨htimer, fun ht => ?_, fun ht => ?_, rfl⟩
  · rw [hlevel, if_neg (Int.not_lt.2 ht)]
  · rw [hlevel, if_pos ht]
    exact ⟨noiseShift_getLsbD_zero l, fun i hi => noiseShift_getLsbD_succ l hi⟩

/-! ## The position, the half flip and the Auto-DMA trigger (45_mixer R380, 46_dma R413) -/

/-- R413: the half the mixer is not reading, at the new position. -/
theorem idleHalf_advanceOutPos (k : Core) :
    k.advanceOutPos.idleHalf = decide ((k.outPos.toNat + 1) % 0x200 < 0x100) := by
  obtain ⟨-, -, hbit8⟩ := outPos_succ k.outPos
  rw [Core.idleHalf, Core.advanceOutPos, hbit8, ← decide_not]
  exact decide_eq_decide.2 Nat.not_le

/-- The Auto-DMA counters after the trigger. -/
theorem admaTrigger_adma (c : CoreId) (k : Core) :
    (admaTrigger c k).adma =
      if k.admas.getLsbD c.num = true then
        (if k.adma.left ≠ 0 then { k.adma with pending := true }
        else if 0 < k.dma.size ∧ k.dma.dir = .write then { k.adma with left := 16, half := k.idleHalf }
        else k.adma)
      else k.adma := by
  rw [← admaActive_eq]
  obtain ⟨hactive, hleft, h⟩ | ⟨hactive, hleft, hwaiting, h⟩ | ⟨hactive, hleft, hnone, h⟩ | ⟨hactive, h⟩ :=
    admaTrigger_cases c k
  · rw [h, if_pos hactive, if_pos hleft]
  · rw [h, if_pos hactive, if_neg (not_not.2 hleft), if_pos hwaiting]
    rfl
  · rw [h, if_pos hactive, if_neg (not_not.2 hleft), if_neg hnone]
  · rw [h, if_neg (by simp [hactive])]

/-- The new position is a multiple of 0x100: the half bit becomes its bit 8, and the trigger sees it. -/
theorem advancePosition_of_boundary {c : CoreId} {e : Engine}
    (h : ((e.core c).outPos + 1).extractLsb' 0 8 = 0#8) :
    advancePosition c e = (e.setHalf (((e.core c).outPos + 1).getLsbD 8)).updCore c
      fun k => admaTrigger c k.advanceOutPos := by
  rw [advancePosition, flipHalf, engine_updCore_core_same]
  refine (if_pos h).trans ?_
  cases c <;> rfl

theorem advancePosition_of_inside {c : CoreId} {e : Engine}
    (h : ((e.core c).outPos + 1).extractLsb' 0 8 ≠ 0#8) :
    advancePosition c e = e.updCore c Core.advanceOutPos := by
  rw [advancePosition, flipHalf, engine_updCore_core_same]
  exact if_neg h

theorem advancePosition_half_eq (c : CoreId) (e : Engine) :
    (advancePosition c e).irqstat.half =
      if ((e.core c).outPos + 1).extractLsb' 0 8 = 0#8 then ((e.core c).outPos + 1).getLsbD 8
      else e.irqstat.half := by
  split
  next h => rw [advancePosition_of_boundary h, engine_updCore_irqstat, engine_setHalf_half]
  next h => rw [advancePosition_of_inside h, engine_updCore_irqstat]

theorem advancePosition_adma (c : CoreId) (e : Engine) :
    ((advancePosition c e).core c).adma =
      if ((e.core c).outPos + 1).extractLsb' 0 8 = 0#8 then (admaTrigger c (e.core c).advanceOutPos).adma
      else (e.core c).adma := by
  split
  next h => rw [advancePosition_of_boundary h, engine_updCore_core_same, engine_setHalf_core]
  next h =>
    rw [advancePosition_of_inside h, engine_updCore_core_same]
    rfl

/-! ## What a tick leaves (45_mixer R363, R382) -/

/-- Up to the position of step 14, a tick keeps what the half flip and the Auto-DMA trigger read. -/
theorem beforePosition_voiceSteps_core (cfg : Config) (c : CoreId) (sin : Frame) (e : Engine) :
    let k := e.core c
    let k' := (beforePosition cfg c sin (voiceSteps cfg c sin e)).core c
    k'.outPos = k.outPos ∧ k'.adma = k.adma ∧ k'.dma = k.dma ∧ k'.admas = k.admas := by
  obtain ⟨w, hcore⟩ := beforePosition_core cfg c sin (voiceSteps cfg c sin e)
  have hpart := voiceSteps_voicePart cfg c sin e
  rw [hcore]
  exact ⟨hpart.outPos, hpart.adma, hpart.settings.dma, hpart.settings.admas⟩

/-- The half bit changes at the multiples of 0x100 (R380). -/
theorem tick_half_eq (cfg : Config) (c : CoreId) (sin : Frame) (e : Engine) :
    let p := ((e.core c).outPos.toNat + 1) % 0x200
    (tick cfg c sin e).1.irqstat.half = if p % 0x100 = 0 then decide (0x100 ≤ p) else e.irqstat.half := by
  intro p
  obtain ⟨-, hboundary, hbit8⟩ := outPos_succ (e.core c).outPos
  obtain ⟨hpos, -, -, -⟩ := beforePosition_voiceSteps_core cfg c sin e
  rw [tick_engine, engine_updCore_irqstat, advancePosition_half_eq, hpos, beforePosition_half, voiceSteps_half, hbit8]
  exact if_congr hboundary rfl rfl

/-- The trigger sees the counters, the transfer and the gate of before the tick, at the new position (R413). -/
theorem tick_adma (cfg : Config) (c : CoreId) (sin : Frame) (e : Engine) :
    let k := e.core c
    let p := (k.outPos.toNat + 1) % 0x200
    ((tick cfg c sin e).1.core c).adma =
      if p % 0x100 = 0 then (admaTrigger c k.advanceOutPos).adma else k.adma := by
  intro k p
  obtain ⟨-, hboundary, -⟩ := outPos_succ k.outPos
  obtain ⟨hpos, hadma, hdma, hadmas⟩ := beforePosition_voiceSteps_core cfg c sin e
  rw [tick_engine, engine_updCore_core_same]
  refine (advancePosition_adma c _).trans ?_
  simp only [admaTrigger_adma, Core.advanceOutPos, hpos, hadma, hdma, hadmas]
  exact if_congr hboundary rfl rfl

/-- Step 15 acts on what stood in the noise generator, `ATTR` and the master volume before the tick. -/
theorem tick_core_update (cfg : Config) (c : CoreId) (sin : Frame) (e : Engine) :
    let k := e.core c
    let k' := (tick cfg c sin e).1.core c
    k' = { (voiceSteps cfg c sin e).core c with
      rvb := k'.rvb, outPos := k'.outPos, adma := k'.adma, noise := k.noiseTick.noise
      mvol := ⟨volTick cfg.envFracBits.val k.mvol.left, volTick cfg.envFracBits.val k.mvol.right⟩ } := by
  intro k k'
  obtain ⟨w, m, hcore⟩ := tick_core cfg c sin e
  have hpart := voiceSteps_voicePart cfg c sin e
  have hnoise : k.noiseTick.noise = ((voiceSteps cfg c sin e).core c).noiseTick.noise := by
    simp only [Core.noiseTick, hpart.settings.attr, hpart.noise, k]
  rw [hnoise, ← hpart.mvol, show k' = _ from hcore]
  rfl

/-- Settles O46: the half bit and the Auto-DMA counters change at a multiple of 0x100 (`tick_half_eq`, `tick_adma`), and the rest of the core is as `tick_core_update` says. -/
theorem tickMovesPositionAndTriggersRefill : Obligations.TickMovesPositionAndTriggersRefill := by
  intro cfg c sin e k e' k' p
  obtain ⟨hnext, -, -⟩ := outPos_succ k.outPos
  refine ⟨?_, tick_half_eq cfg c sin e, ?_, tick_core_update cfg c sin e, (tickFrame_tick cfg c sin e).other⟩
  · rw [show k'.outPos = k.outPos + 1 from tick_outPos cfg c sin e]
    exact hnext
  · rw [ite_and, ← idleHalf_advanceOutPos]
    exact (tick_adma cfg c sin e).trans (if_congr Iff.rfl (admaTrigger_adma c k.advanceOutPos) rfl)

end Sys2Proof.Machine

/-! # The reverb (44_reverb)

The filter network is three parts in the order of R330: two reflections, the sum of four combs, two all-passes (`rvbCore_eq`). Each part has one lemma for the RAM it leaves, the value it answers and the signals it sends, so that those of the network follow by chaining. Around the network, `reverb_engine` and `reverb_work` say what a tick does with any value the processing answers; a degenerate work area is the case where that value is 0 and the engine is untouched. -/

namespace Sys2Proof.Machine

/-! ## Addresses (R326) -/

theorem rvbOffset_toNat {k : Core} (h : k.esa.toNat < k.eea.toNat) (x : Int) :
    ((rvbOffset k x).toNat : Int) =
      k.esa.toNat + (k.rvb.pos.toNat + x) % ((k.eea.toNat : Int) - k.esa.toNat) := by
  have hnonneg := Int.emod_nonneg (k.rvb.pos.toNat + x) (show (k.eea.toNat : Int) - k.esa.toNat ≠ 0 by omega)
  have hlt := Int.emod_lt_of_pos (k.rvb.pos.toNat + x) (show 0 < (k.eea.toNat : Int) - k.esa.toNat by omega)
  have heea := k.eea.isLt
  rw [rvbOffset, BitVec.toNat_ofInt, Int.toNat_of_nonneg (Int.emod_nonneg _ (by decide))]
  exact Int.emod_eq_of_lt (by omega) (by push_cast; omega)

/-- Settles O39: the sum is below 2^20, so the address is it unreduced (`rvbOffset_toNat`). -/
theorem reverbOffsetStaysInWorkArea : Obligations.ReverbOffsetStaysInWorkArea := fun _ x h =>
  ⟨rvbOffset_toNat h x, rvbOffset_bounds h x⟩

/-! ## The three parts of the filter network (R330) -/

theorem Signals.of_eq {c : CoreId} {m n : Nat} {e e' : Engine} (h : Signals c m e e') (hmn : n = m) :
    Signals c n e e' := hmn ▸ h

/-- The two reflection stages of the network, with the offsets of core `k`. -/
def rvbReflections (cfg : Config) (c : CoreId) (k : Core) (ph : Side) (lin : Half) (e : Engine) : Engine :=
  rvbReflect cfg c (k.offInt .mDIFF ph) (k.offInt .dDIFF ph.other) lin
    (rvbReflect cfg c (k.offInt .mSAME ph) (k.offInt .dSAME ph) lin e)

/-- The sum of the four comb taps. -/
def rvbCombs (cfg : Config) (c : CoreId) (ph : Side) (e : Engine) : Engine × Half :=
  rvbComb cfg c .mCOMB4 .vCOMB4 ph (rvbComb cfg c .mCOMB3 .vCOMB3 ph (rvbComb cfg c .mCOMB2 .vCOMB2 ph
    (rvbFirstComb cfg c .mCOMB1 .vCOMB1 ph e)))

/-- The two all-pass stages of the network, with the offsets of core `k`. -/
def rvbAllPasses (cfg : Config) (c : CoreId) (k : Core) (ph : Side) (acc : Engine × Half) : Engine × Half :=
  rvbAllPass cfg c (k.offInt .mAPF2 ph) (k.offInt .dAPF .right) .vAPF2
    (rvbAllPass cfg c (k.offInt .mAPF1 ph) (k.offInt .dAPF .left) .vAPF1 acc)

theorem rvbCore_eq (cfg : Config) (c : CoreId) (ph : Side) (x : Half) (e : Engine) :
    rvbCore cfg c ph x e = rvbAllPasses cfg c (e.core c) ph (rvbCombs cfg c ph
      (rvbReflections cfg c (e.core c) ph (times x ((e.core c).coef (vIN ph))) e)) := rfl

/-- The accesses of the reflection stages, in order (R332, R333). -/
def rvbReflectionTaps (k : Core) (ph : Side) : List Int :=
  [k.offInt .mSAME ph - 1, k.offInt .dSAME ph, k.offInt .mSAME ph,
    k.offInt .mDIFF ph - 1, k.offInt .dDIFF ph.other, k.offInt .mDIFF ph]

/-- The accesses of the comb stages, in order (R334). -/
def rvbCombTaps (k : Core) (ph : Side) : List Int :=
  [k.offInt .mCOMB1 ph, k.offInt .mCOMB2 ph, k.offInt .mCOMB3 ph, k.offInt .mCOMB4 ph]

/-- The accesses of the all-pass stages, in order (R335). -/
def rvbAllPassTaps (k : Core) (ph : Side) : List Int :=
  [k.offInt .mAPF1 ph - k.offInt .dAPF .left, k.offInt .mAPF1 ph,
    k.offInt .mAPF2 ph - k.offInt .dAPF .right, k.offInt .mAPF2 ph]

theorem rvbReflections_spec (cfg : Config) (c : CoreId) (ph : Side) (lin : Half) (e : Engine) {k : Core}
    (hk : e.core c = k) :
    let m1 := rvbStored k e.ram (k.offInt .mSAME ph)
      (rvbReflected k e.ram (k.offInt .mSAME ph) (k.offInt .dSAME ph) lin)
    (rvbReflections cfg c k ph lin e).ram = rvbStored k m1 (k.offInt .mDIFF ph)
        (rvbReflected k m1 (k.offInt .mDIFF ph) (k.offInt .dDIFF ph.other) lin) ∧
      Signals c ((rvbReflectionTaps k ph).map (rvbHits cfg k)).sum e (rvbReflections cfg c k ph lin e) := by
  intro m1
  obtain ⟨hram1, hsig1⟩ := rvbReflect_spec cfg c (k.offInt .mSAME ph) (k.offInt .dSAME ph) lin e hk
  obtain ⟨hram2, hsig2⟩ := rvbReflect_spec cfg c (k.offInt .mDIFF ph) (k.offInt .dDIFF ph.other) lin _
    ((hsig1.cores c).trans hk)
  rw [hram1] at hram2
  exact ⟨hram2, (hsig1.trans hsig2).of_eq (by simp [rvbReflectionTaps, Nat.add_assoc])⟩

theorem rvbCombs_spec (cfg : Config) (c : CoreId) (ph : Side) (e : Engine) {k : Core} (hk : e.core c = k) :
    let term (n : RvbCoef) (o : RvbOffset) := times (k.coef n) (rvbWord k e.ram (k.offInt o ph))
    (rvbCombs cfg c ph e).1.ram = e.ram ∧
      (rvbCombs cfg c ph e).2 = plus (plus (plus (term .vCOMB1 .mCOMB1) (term .vCOMB2 .mCOMB2))
        (term .vCOMB3 .mCOMB3)) (term .vCOMB4 .mCOMB4) ∧
      Signals c ((rvbCombTaps k ph).map (rvbHits cfg k)).sum e (rvbCombs cfg c ph e).1 := by
  intro term
  obtain ⟨hram1, hval1, hsig1⟩ := rvbFirstComb_spec cfg c .mCOMB1 .vCOMB1 ph e hk
  obtain ⟨hram2, hval2, hsig2⟩ := rvbComb_spec cfg c .mCOMB2 .vCOMB2 ph _ ((hsig1.cores c).trans hk)
  have hsig12 := hsig1.trans hsig2
  obtain ⟨hram3, hval3, hsig3⟩ := rvbComb_spec cfg c .mCOMB3 .vCOMB3 ph _ ((hsig12.cores c).trans hk)
  have hsig13 := hsig12.trans hsig3
  obtain ⟨hram4, hval4, hsig4⟩ := rvbComb_spec cfg c .mCOMB4 .vCOMB4 ph _ ((hsig13.cores c).trans hk)
  simp only [hram3, hram2, hram1, hval3, hval2, hval1] at hram4 hval4
  exact ⟨hram4, hval4, (hsig13.trans hsig4).of_eq (by simp [rvbCombTaps, Nat.add_assoc])⟩

theorem rvbAllPasses_spec (cfg : Config) (c : CoreId) (ph : Side) (acc : Engine × Half) {k : Core}
    (hk : acc.1.core c = k) :
    let d1 := rvbWord k acc.1.ram (k.offInt .mAPF1 ph - k.offInt .dAPF .left)
    let o1 := minus acc.2 (times (k.coef .vAPF1) d1)
    let m3 := rvbStored k acc.1.ram (k.offInt .mAPF1 ph) o1
    let d2 := rvbWord k m3 (k.offInt .mAPF2 ph - k.offInt .dAPF .right)
    let o3 := minus (plus (times o1 (k.coef .vAPF1)) d1) (times (k.coef .vAPF2) d2)
    (rvbAllPasses cfg c k ph acc).1.ram = rvbStored k m3 (k.offInt .mAPF2 ph) o3 ∧
      (rvbAllPasses cfg c k ph acc).2 = plus (times o3 (k.coef .vAPF2)) d2 ∧
      Signals c ((rvbAllPassTaps k ph).map (rvbHits cfg k)).sum acc.1 (rvbAllPasses cfg c k ph acc).1 := by
  intro d1 o1 m3 d2 o3
  obtain ⟨hram1, hval1, hsig1⟩ := rvbAllPass_spec cfg c (k.offInt .mAPF1 ph) (k.offInt .dAPF .left) .vAPF1 acc hk
  obtain ⟨hram2, hval2, hsig2⟩ := rvbAllPass_spec cfg c (k.offInt .mAPF2 ph) (k.offInt .dAPF .right) .vAPF2 _
    ((hsig1.cores c).trans hk)
  rw [hram1, hval1] at hram2 hval2
  exact ⟨hram2, hval2, (hsig1.trans hsig2).of_eq (by simp [rvbAllPassTaps, Nat.add_assoc])⟩

/-- Settles O41: the stores and the value are those of the three parts in turn, and the 14 accesses are theirs in order; `reverb_bytes` confines the stores of a whole tick. -/
theorem reverbStoresAreGatedAndConfined : Obligations.ReverbStoresAreGatedAndConfined := by
  refine ⟨fun cfg c inp e b h => reverb_bytes cfg c inp e h, ?_⟩
  intro cfg c ph x e _ k tap rd wr vin opp lin refl m1 m2 o0 d1 o1 m3 o2 d2 o3 accesses hits r
  obtain ⟨hram2, hsig2⟩ := rvbReflections_spec cfg c ph (times x (k.coef (vIN ph))) e (k := k) rfl
  obtain ⟨hram3, hval3, hsig3⟩ := rvbCombs_spec cfg c ph _ (hsig2.cores c)
  have hsig23 := hsig2.trans hsig3
  obtain ⟨hram4, hval4, hsig4⟩ := rvbAllPasses_spec cfg c ph _ (hsig23.cores c)
  rw [hram2] at hram3 hval3
  rw [hram3, hval3] at hram4 hval4
  have hhits : ((rvbReflectionTaps k ph).map (rvbHits cfg k)).sum +
      ((rvbCombTaps k ph).map (rvbHits cfg k)).sum + ((rvbAllPassTaps k ph).map (rvbHits cfg k)).sum = hits := by
    rw [← List.sum_append, ← List.map_append, ← List.sum_append, ← List.map_append]
    exact sum_rvbHits cfg k accesses
  have hsig : Signals c hits e r.1 := (hsig23.trans hsig4).of_eq hhits.symm
  exact ⟨hram4, hval4, hsig.log, hsig.cause, hsig.half, hsig.cores⟩

/-! ## The histories, the cursor and the phase (R321, R322, R338) -/

theorem pushHistory_toList (h : Vector Half 39) (x : Half) : (pushHistory h x).toList = x :: h.toList.take 38 := rfl

theorem pushInput_down_get (w : RvbWork) (inp : Frame) (ch : Side) :
    (w.pushInput inp).down.get ch = pushHistory (w.down.get ch) (inp.get ch) := by
  cases ch <;> rfl

/-- The value enters the history of the phase, and a zero the other one (R325). -/
theorem pushOutput_up_get (w : RvbWork) (y : Half) (ch : Side) :
    (w.pushOutput y).up.get ch = pushHistory (w.up.get ch) (if ch = w.phase then y else 0) := by
  unfold RvbWork.pushOutput
  cases ch <;> cases w.phase <;> rfl

theorem rvbOutput_get (cfg : Config) (w : RvbWork) (ch : Side) :
    (rvbOutput cfg w).get ch = firOf cfg cfg.rvbUpShift (w.up.get ch).toList := by
  cases ch <;> exact fir_eq ..

theorem nextRvbPos_toNat (k : Core) :
    k.nextRvbPos.toNat =
      if k.rvb.phase = .right ∧ k.esa.toNat < k.eea.toNat
      then (k.rvb.pos.toNat + 1) % (k.eea.toNat - k.esa.toNat) else k.rvb.pos.toNat := by
  unfold Core.nextRvbPos Core.reverbArea
  simp only [decide_eq_true_eq]
  split
  next h =>
    have hlt := Nat.mod_lt (k.rvb.pos.toNat + 1) (show 0 < k.eea.toNat - k.esa.toNat by omega)
    rw [BitVec.toNat_ofNat, Nat.mod_eq_of_lt (by omega)]
  next => rfl

theorem side_other_eq (ph : Side) : ph.other = if ph = .left then .right else .left := by
  cases ph <;> rfl

theorem side_other_ne (ph : Side) : ph.other ≠ ph := by
  cases ph <;> decide

/-! ## The tick around the network (R321, R327) -/

/-- The engine as the filter network of a reverb tick finds it: the wet input pushed (R321). -/
def inputPushed (c : CoreId) (inp : Frame) (e : Engine) : Engine :=
  e.updCore c fun k => k.updRvb fun w => w.pushInput inp

theorem inputPushed_core (c : CoreId) (inp : Frame) (e : Engine) :
    (inputPushed c inp e).core c = (e.core c).updRvb fun w => w.pushInput inp :=
  engine_updCore_core_same ..

@[simp] theorem inputPushed_ram (c : CoreId) (inp : Frame) (e : Engine) : (inputPushed c inp e).ram = e.ram :=
  engine_updCore_ram ..

@[simp] theorem inputPushed_log (c : CoreId) (inp : Frame) (e : Engine) : (inputPushed c inp e).log = e.log :=
  engine_updCore_log ..

@[simp] theorem inputPushed_irqstat (c : CoreId) (inp : Frame) (e : Engine) :
    (inputPushed c inp e).irqstat = e.irqstat :=
  engine_updCore_irqstat ..

theorem rvbValue_of_area (cfg : Config) {c : CoreId} {e : Engine} (h : (e.core c).esa.toNat < (e.core c).eea.toNat) :
    rvbValue cfg c e = rvbCore cfg c (e.core c).rvb.phase (rvbInput cfg (e.core c).rvb) e :=
  if_pos (decide_eq_true h)

theorem rvbValue_of_degenerate (cfg : Config) {c : CoreId} {e : Engine}
    (h : ¬ (e.core c).esa.toNat < (e.core c).eea.toNat) : rvbValue cfg c e = (e, 0) :=
  if_neg (by simpa [Core.reverbArea] using h)

theorem engine_updCore_congr {e : Engine} {c : CoreId} {f g : Core → Core} (h : f (e.core c) = g (e.core c)) :
    e.updCore c f = e.updCore c g := by
  cases c
  · exact congrArg (fun k => { e with core0 := k }) h
  · exact congrArg (fun k => { e with core1 := k }) h

/-- Outside the working state of core `c` a tick is what the processing of the pushed input does. -/
theorem reverb_engine (cfg : Config) (c : CoreId) (inp : Frame) (e : Engine) :
    let v := rvbValue cfg c (inputPushed c inp e)
    let e' := (reverb cfg c inp e).1
    e'.ram = v.1.ram ∧ e'.log = v.1.log ∧ e'.irqstat = v.1.irqstat := by
  simp [reverb, inputPushed]

/-- The working state a tick leaves, for whatever value the processing answers, and no other change of the core. -/
theorem reverb_work (cfg : Config) (c : CoreId) (inp : Frame) (e : Engine) :
    let y := (rvbValue cfg c (inputPushed c inp e)).2
    let w := (e.core c).rvb
    let w' := ((reverb cfg c inp e).1.core c).rvb
    w' = { ((w.pushInput inp).pushOutput y) with pos := (e.core c).nextRvbPos, phase := w.phase.other } ∧
      (reverb cfg c inp e).1.core c = { e.core c with rvb := w' } := by
  intro y w w'
  have hcore : (reverb cfg c inp e).1.core c =
      (((e.core c).updRvb fun w => w.pushInput inp).updRvb fun w => w.pushOutput y).advanceReverb := by
    simp only [reverb, engine_updCore_core_same, (rvbFrame_value ..).cores]
    rfl
  have hw' : w' = _ := congrArg Core.rvb hcore
  exact ⟨hw', by rw [hw', hcore]; rfl⟩

/-- Each wet input enters its down-history (R321, R324). -/
theorem reverb_down (cfg : Config) (c : CoreId) (inp : Frame) (e : Engine) (ch : Side) :
    (((reverb cfg c inp e).1.core c).rvb.down.get ch).toList =
      inp.get ch :: ((e.core c).rvb.down.get ch).toList.take 38 := by
  rw [(reverb_work cfg c inp e).1, ← pushHistory_toList, ← pushInput_down_get]
  rfl

/-- The value enters the up-history of the phase, and a zero the other one (R321, R325). -/
theorem reverb_up (cfg : Config) (c : CoreId) (inp : Frame) (e : Engine) (ch : Side) :
    (((reverb cfg c inp e).1.core c).rvb.up.get ch).toList =
      (if ch = (e.core c).rvb.phase then (rvbValue cfg c (inputPushed c inp e)).2 else 0) ::
        ((e.core c).rvb.up.get ch).toList.take 38 := by
  rw [(reverb_work cfg c inp e).1, ← pushHistory_toList]
  exact congrArg Vector.toList (pushOutput_up_get ((e.core c).rvb.pushInput inp) _ ch)

/-- The input of the filter network is the filtered down-history of the phase (R324). -/
theorem rvbValue_inputPushed (cfg : Config) {c : CoreId} (inp : Frame) {e : Engine}
    (h : (e.core c).esa.toNat < (e.core c).eea.toNat) :
    rvbValue cfg c (inputPushed c inp e) =
      rvbCore cfg c (e.core c).rvb.phase (firOf cfg cfg.rvbDownShift
        (((reverb cfg c inp e).1.core c).rvb.down.get (e.core c).rvb.phase).toList) (inputPushed c inp e) := by
  rw [rvbValue_of_area cfg (by rw [inputPushed_core]; exact h), inputPushed_core, (reverb_work cfg c inp e).1]
  exact congrArg (fun x => rvbCore cfg c (e.core c).rvb.phase x (inputPushed c inp e)) (fir_eq ..)

/-- The output is the filtered up-histories that the tick leaves (R325). -/
theorem reverb_output (cfg : Config) (c : CoreId) (inp : Frame) (e : Engine) (ch : Side) :
    (reverb cfg c inp e).2.get ch =
      firOf cfg cfg.rvbUpShift (((reverb cfg c inp e).1.core c).rvb.up.get ch).toList := by
  rw [← rvbOutput_get]
  simp only [reverb, engine_updCore_core_same]
  rfl

/-! ## The obligations on the whole tick -/

/-- Settles O40: the processing answers 0 and leaves the engine as it was (`rvbValue_of_degenerate`). -/
theorem degenerateWorkAreaIsInert : Obligations.DegenerateWorkAreaIsInert := by
  intro cfg c inp e harea e' w w'
  have hvalue : rvbValue cfg c (inputPushed c inp e) = (inputPushed c inp e, 0) :=
    rvbValue_of_degenerate cfg (by rw [inputPushed_core]; exact Nat.not_lt.2 harea)
  obtain ⟨hram, hlog, hirqstat⟩ := reverb_engine cfg c inp e
  obtain ⟨hwork, hcore⟩ := reverb_work cfg c inp e
  have hup (ch : Side) : (w'.up.get ch).toList = 0 :: (w.up.get ch).toList.take 38 := by
    rw [reverb_up, hvalue, ite_self]
  have hpos : w'.pos = w.pos := by
    rw [show w' = _ from hwork]
    exact if_neg (by simp [Core.reverbArea, harea])
  have hphase : w'.phase ≠ w.phase := by
    rw [show w' = _ from hwork]
    exact side_other_ne _
  rw [hvalue] at hram hlog hirqstat
  simp only [inputPushed_ram, inputPushed_log, inputPushed_irqstat] at hram hlog hirqstat
  exact ⟨fun a => by rw [hram], hirqstat, hlog, (tickFrame_reverb cfg c inp e).other, hpos, hphase,
    reverb_down cfg c inp e .left, reverb_down cfg c inp e .right, hup .left, hup .right, hcore⟩

/-- Settles O42: the processing is the filter network on the pushed input, or nothing (`rvbValue_inputPushed`, `rvbValue_of_degenerate`), and the rest of the tick is as for any value. -/
theorem reverbCursorAdvance : Obligations.ReverbCursorAdvance := by
  intro cfg c inp e k k' pushed x core area y
  obtain ⟨hwork, hcore⟩ := reverb_work cfg c inp e
  have hpushed : pushed = inputPushed c inp e := engine_updCore_congr (by
    simp only [k', hwork]
    rfl)
  have hvalue : rvbValue cfg c (inputPushed c inp e) = if area then core else (inputPushed c inp e, 0) := by
    split
    next harea => rw [rvbValue_inputPushed cfg inp harea, ← hpushed]
    next harea => exact rvbValue_of_degenerate cfg (by rw [inputPushed_core]; exact harea)
  have hy : (rvbValue cfg c (inputPushed c inp e)).2 = y := by
    rw [hvalue, apply_ite Prod.snd]
  have ⟨hram, hlog, hirqstat⟩ : (reverb cfg c inp e).1.ram = (if area then core.1.ram else e.ram) ∧
      (reverb cfg c inp e).1.log = (if area then core.1.log else e.log) ∧
      (reverb cfg c inp e).1.irqstat = (if area then core.1.irqstat else e.irqstat) := by
    obtain ⟨hram, hlog, hirqstat⟩ := reverb_engine cfg c inp e
    rw [hram, hlog, hirqstat, hvalue]
    by_cases harea : area <;> simp [harea]
  refine ⟨?_, ?_, fun ch => ⟨reverb_down cfg c inp e ch, ?_, reverb_output cfg c inp e ch⟩, hram, hlog, hirqstat,
    hcore, (tickFrame_reverb cfg c inp e).other⟩
  · simp only [k', hwork]
    exact side_other_eq _
  · simp only [k', hwork]
    exact nextRvbPos_toNat k
  · rw [← hy]
    exact reverb_up cfg c inp e ch

end Sys2Proof.Machine

/-! # RUN (45_mixer R361)

`RUN` is a number of rounds, `runTicks`, given by the accumulator. Rounds that follow each other are one longer loop, and the cycles they leave over change nothing else, so successive runs add up (`runCycles_add`). The engine after `j` rounds is `roundEngine`, one `tickBoth` for each external sample. -/

namespace Sys2Proof.Machine

/-! ## The accumulator -/

theorem runCycles_eq (n : Nat) (s : State) :
    runCycles n s = runTicks ((s.runAcc + n) / s.cfg.tickCycles.val) { s with runAcc := s.runAcc + n } := rfl

theorem runCycles_cfg (n : Nat) (s : State) : (runCycles n s).cfg = s.cfg :=
  (runTicks_spec _ { s with runAcc := s.runAcc + n }).1.cfg

/-- The rounds take whole quanta off the accumulator. -/
theorem runCycles_runAcc (n : Nat) (s : State) :
    (runCycles n s).runAcc = (s.runAcc + n) % s.cfg.tickCycles.val := by
  obtain ⟨-, -, -, hacc⟩ := runTicks_spec ((s.runAcc + n) / s.cfg.tickCycles.val) { s with runAcc := s.runAcc + n }
  rw [Nat.mod_eq_sub_div_mul]
  exact hacc

/-- The cycles that the first rounds leave over meet the later ones in the accumulator. -/
theorem runCycles_add (a b : Nat) (s : State) : runCycles b (runCycles a s) = runCycles (a + b) s := by
  have hlater : ((runCycles a s).runAcc + b) / (runCycles a s).cfg.tickCycles.val =
      ((s.runAcc + a) % s.cfg.tickCycles.val + b) / s.cfg.tickCycles.val := by
    rw [runCycles_cfg, runCycles_runAcc]
  have hrounds : (s.runAcc + a + b) / s.cfg.tickCycles.val =
      (s.runAcc + a) / s.cfg.tickCycles.val +
        ((s.runAcc + a) % s.cfg.tickCycles.val + b) / s.cfg.tickCycles.val := by
    conv_lhs => rw [← Nat.div_add_mod (s.runAcc + a) s.cfg.tickCycles.val, Nat.add_assoc,
      Nat.mul_add_div (atLeast_one_pos _)]
  have hspare := runTicks_spare ((s.runAcc + a) / s.cfg.tickCycles.val) { s with runAcc := s.runAcc + a } b
    (Nat.div_mul_le_self _ _)
  rw [runCycles_eq b, hlater, runCycles_eq (a + b), ← Nat.add_assoc, hrounds, runTicks_add]
  exact congrArg _ hspare.symm

/-- Settles O45: `runCycles_add`, with a sum of operands that does not wrap. -/
theorem successiveRunsAddUp : Obligations.SuccessiveRunsAddUp := by
  intro a b s t hfits hrun
  have ht : runCycles a.toNat s = t := by injection hrun
  have hsum : (a + b).toNat = a.toNat + b.toNat := BitVec.toNat_add_of_lt hfits
  calc
    exec (.run b) t = .next (runCycles b.toNat (runCycles a.toNat s)) := by
      rw [ht]
      rfl
    _ = .next (runCycles (a + b).toNat s) := by rw [runCycles_add, hsum]

/-! ## The rounds -/

/-- The engine after `j` rounds of `RUN`: round `j` takes external sample `j`, or `EXT_IN` where none is queued (log 10). -/
def roundEngine (cfg : Config) (ext : List Frame) (e : Engine) : Nat → Engine
  | 0 => e
  | j + 1 => tickBoth cfg (ext.getD j cfg.extIn) (roundEngine cfg ext e j)

/-- `n` rounds leave the engine of the `n`-th round and the external samples after the first `n`. -/
theorem runTicks_rounds (n : Nat) (s : State) :
    (runTicks n s).engine = roundEngine s.cfg s.extIn s.engine n ∧ (runTicks n s).extIn = s.extIn.drop n := by
  induction n with
  | zero => exact ⟨rfl, rfl⟩
  | succ n ih =>
    obtain ⟨hengine, hext⟩ := ih
    have hcfg : (runTicks n s).cfg = s.cfg := (runTicks_spec n s).1.cfg
    have hsample : (s.extIn.drop n).headD s.cfg.extIn = s.extIn.getD n s.cfg.extIn := by
      rw [List.headD_eq_head?_getD, List.head?_drop, List.getD_eq_getElem?_getD]
    rw [runTicks_add n 1, roundEngine, ← hsample, ← hengine, ← hext, ← hcfg]
    exact ⟨rfl, by rw [← List.tail_drop, ← hext]; rfl⟩

/-- Settles O44: the counts from `runTicks_spec`, the rounds from `runTicks_rounds`. -/
theorem runCountsTicksAndFrames : Obligations.RunCountsTicksAndFrames := by
  intro n s
  obtain ⟨hframe, ⟨new, hlog, hcount⟩, -, -⟩ :=
    runTicks_spec ((s.runAcc + n.toNat) / s.cfg.tickCycles.val) { s with runAcc := s.runAcc + n.toNat }
  obtain ⟨hengine, hext⟩ :=
    runTicks_rounds ((s.runAcc + n.toNat) / s.cfg.tickCycles.val) { s with runAcc := s.runAcc + n.toNat }
  refine ⟨runCycles n.toNat s, rfl, runCycles_runAcc _ _, ?_, hframe.cfg, hframe.spdif, hframe.fault, hext,
    roundEngine s.cfg s.extIn s.engine, rfl, hengine, fun _ _ => rfl⟩
  rw [runCycles_eq, hlog, List.countP_append, hcount, Nat.add_comm]

/-! ## What only the host writes -/

/-- Settles O48: the settings stay by the frame of `RUN`, and there is no round exactly where the cycles stay below one quantum. -/
theorem runKeepsHostRegisters : Obligations.RunKeepsHostRegisters := by
  intro n s
  obtain ⟨hframe, -, hkeys, -⟩ :=
    runTicks_spec ((s.runAcc + n.toNat) / s.cfg.tickCycles.val) { s with runAcc := s.runAcc + n.toNat }
  have hidle : (s.runAcc + n.toNat) / s.cfg.tickCycles.val = 0 ↔ s.runAcc + n.toNat < s.cfg.tickCycles.val :=
    Nat.div_eq_zero_iff_lt (atLeast_one_pos _)
  simp only [hidle] at hkeys
  exact ⟨runCycles n.toNat s, rfl, fun c => ⟨hframe.settings c, hkeys c⟩⟩

end Sys2Proof.Machine

/-! # Steps 1 to 9 of a tick (45_mixer R363)

After the key events every step acts on each voice alone: what a step reads of another voice is its latched output, which only step 9 changes (R371). So the voice that steps 1 to 9 leave is one equation (`voiceSteps_voice`) in the voice of step 4, the queue of which holds what step 5 interpolates. -/

namespace Sys2Proof.Machine

/-! ## The samples (R369, R371) -/

/-- The product of a sample and a level is below 2^30 in magnitude, so its upper part fits 16 bits. -/
theorem postEnvelope_toInt (x : Half) {level : Half} (h : 0 ≤ level.toInt) :
    (postEnvelope x level).toInt = x.toInt * level.toInt / 2 ^ 15 := by
  have hx0 := half_le_toInt x
  have hx1 := half_toInt_lt x
  have hlevel := half_toInt_lt level
  have hlow : -0x8000 * level.toInt ≤ x.toInt * level.toInt := Int.mul_le_mul_of_nonneg_right hx0 h
  have hhigh : x.toInt * level.toInt ≤ 0x7FFF * level.toInt := Int.mul_le_mul_of_nonneg_right (by omega) h
  rw [postEnvelope, mulsh, asr, toInt_ofInt_half] <;> omega

theorem postEnvelope_zero (x : Half) : postEnvelope x 0 = 0 := by
  simp [postEnvelope, mulsh, asr]

theorem panned_toInt (k : Core) (ch : Side) (v : VoiceId) :
    (panned k ch v).toInt =
      max (-0x8000) (min 0x7FFF ((k.voice v).out.toInt * ((k.voice v).vol.get ch).level.toInt / 2 ^ 15)) :=
  toInt_clamp16 _

theorem panned_of_silent {k : Core} {v : VoiceId} (h : (k.voice v).out = 0) (ch : Side) : panned k ch v = 0 := by
  simp [panned, h, scale, mulsh, asr, clamp16, clamp]

/-- The four oldest samples are the front of the queue. -/
theorem interpolate_of_buf (cfg : Config) {w : Voice} {b0 b1 b2 b3 : Half} {rest : List Half}
    (h : w.buf = b0 :: b1 :: b2 :: b3 :: rest) :
    let row := cfg.gauss.rows.toList.getD (w.counter.extractLsb' 4 8).toNat (Vector.replicate 4 0)
    interpolate cfg w = saturate
      ((b0.toInt * row[0].toInt + b1.toInt * row[1].toInt + b2.toInt * row[2].toInt + b3.toInt * row[3].toInt)
        / 2 ^ 15) := by
  intro row
  have hrow : cfg.gauss.rows[gaussIndex w.counter] = row := gaussRow_eq ..
  rw [interpolate, hrow, clamp16_eq]
  simp only [windowSample, h]
  rfl

theorem rawSamples_getD (cfg : Config) (k : Core) (v : VoiceId) :
    (rawSamples cfg k).getD v.val 0 = interpolate cfg (k.voice v) := by
  rw [rawSamples, List.getD_eq_getElem?_getD, List.getElem?_map, voiceIds_getElem]
  rfl

/-! ## Steps 6, 7 and 9 on the core -/

theorem latchOuts_sameBesidesVoices (raw : List Half) (k : Core) : k.SameBesidesVoices (latchOuts raw k) :=
  forVoices_sameBesidesVoices (f := latchOut raw) (fun _ _ => ⟨rfl⟩) k

theorem advanceCounters_sameBesidesVoices (k : Core) : k.SameBesidesVoices (advanceCounters k) :=
  forVoices_sameBesidesVoices (f := advanceCounter) (fun _ _ => ⟨rfl⟩) k

theorem envelopeVoices_sameBesidesVoices (cfg : Config) (k : Core) : k.SameBesidesVoices (envelopeVoices cfg k) :=
  forVoices_sameBesidesVoices (f := fun v k => k.updVoice v (envelopeStep cfg)) (fun _ _ => ⟨rfl⟩) k

theorem latchOuts_endx (raw : List Half) (k : Core) : (latchOuts raw k).endx = k.endx :=
  forVoices_field Core.endx (f := latchOut raw) (fun _ _ => rfl) k

theorem latchOuts_core (raw : List Half) (k : Core) :
    latchOuts raw k = { k with voices := (latchOuts raw k).voices } := by
  conv_lhs => rw [(latchOuts_sameBesidesVoices raw k).eq, latchOuts_endx]

theorem advanceCounters_endx (k : Core) : (advanceCounters k).endx = k.endx :=
  forVoices_field Core.endx (f := advanceCounter) (fun _ _ => rfl) k

theorem envelopeVoices_endx (cfg : Config) (k : Core) : (envelopeVoices cfg k).endx = k.endx :=
  forVoices_field Core.endx (f := fun v k => k.updVoice v (envelopeStep cfg)) (fun _ _ => rfl) k

/-! ## Steps 6, 7 and 9 on one voice -/

theorem envelopeStep_out (cfg : Config) (w : Voice) : (envelopeStep cfg w).out = w.out := rfl

theorem advanceCounter_env (step : Nat) (w : Voice) : (w.advanceCounter step).env = w.env := rfl

/-- What steps 6, 7 and 9 make of a voice, with the step of its counter and the sample that is scaled. -/
def latchedVoice (cfg : Config) (step : Nat) (x : Half) (w : Voice) : Voice :=
  { (envelopeStep cfg w).advanceCounter step with out := postEnvelope x (envelopeStep cfg w).env.level }

/-- The envelope and the volumes make one tick each, and the counter splits as in `advanceCounter_splits`. -/
theorem latchedVoice_splits (cfg : Config) {step : Nat} (hstep : step ≤ 0x3FFF) (x : Half) (w : Voice) :
    let w' := latchedVoice cfg step x w
    let F := cfg.envFracBits.val
    ∃ pops : Nat, pops ≤ 4 ∧ (w'.counter.toNat + 0x1000 * pops : Int) = w.counter.toNat + step ∧
      w' = { w with
        env := (envTick F w.adsr1 w.adsr2 w.env).1, vol := ⟨volTick F w.vol.left, volTick F w.vol.right⟩
        counter := w'.counter, buf := w.buf.drop pops, out := w'.out } := by
  intro w' F
  obtain ⟨pops, hpops, hcount, hsplit⟩ := advanceCounter_splits (envelopeStep cfg w) hstep
  have hbuf := congrArg Voice.buf hsplit
  exact ⟨pops, hpops, hcount, congrArg (fun b => { w' with buf := b }) hbuf⟩

/-! ## Core `c` as step 4 leaves it (R366, R368) -/

/-- The key events of step 2, then the decode steps, which read the RAM as step 1 leaves it. -/
def decodedCore (cfg : Config) (c : CoreId) (sin : Frame) (e : Engine) : Core :=
  forVoices (decodeStep cfg (captureSin cfg c sin e).ram) (processKeys (e.core c))

section Tick

variable (cfg : Config) (c : CoreId) (sin : Frame) (e : Engine)

@[simp] theorem captureSin_core (c' : CoreId) : (captureSin cfg c sin e).core c' = e.core c' := by
  simp [captureSin]

theorem voiceSteps_core_decodedCore :
    (voiceSteps cfg c sin e).core c =
      latchOuts (rawSamples cfg (decodedCore cfg c sin e))
        (advanceCounters (envelopeVoices cfg (decodedCore cfg c sin e))) := by
  rw [voiceSteps_core]
  simp [decodeVoices, decodedCore]

theorem decodedCore_voice (v : VoiceId) :
    (decodedCore cfg c sin e).voice v =
      (decodeStep cfg (captureSin cfg c sin e).ram v (processKeys (e.core c))).voice v :=
  decodeSteps_voice ..

theorem decodedCore_voicePart : (e.core c).VoicePart (decodedCore cfg c sin e) :=
  (processKeys_voicePart _).trans (voicePart_forVoices (fun v k => decodeStep_voicePart cfg _ v k) _)

theorem decodedCore_out (v : VoiceId) : ((decodedCore cfg c sin e).voice v).out = ((e.core c).voice v).out := by
  rw [decodedCore_voice, decodeStep_voice_same, decodedVoice_out, processKeys_out]

theorem decodedCore_pitch (v : VoiceId) :
    ((decodedCore cfg c sin e).voice v).pitch = ((e.core c).voice v).pitch :=
  ((decodedCore_voicePart cfg c sin e).settings.voices v).pitch

theorem decodedCore_buf (v : VoiceId) : 4 ≤ ((decodedCore cfg c sin e).voice v).buf.length := by
  rw [decodedCore_voice, decodeStep_voice_same]
  exact decodedVoice_buf ..

theorem voiceSteps_sameBesidesVoices :
    (processKeys (e.core c)).SameBesidesVoices ((voiceSteps cfg c sin e).core c) := by
  have hdecode : (processKeys (e.core c)).SameBesidesVoices (decodedCore cfg c sin e) :=
    forVoices_sameBesidesVoices (fun v k => ⟨decodeStep_core cfg _ v k⟩) _
  rw [voiceSteps_core_decodedCore]
  exact ((hdecode.trans (envelopeVoices_sameBesidesVoices ..)).trans (advanceCounters_sameBesidesVoices _)).trans
    (latchOuts_sameBesidesVoices ..)

theorem voiceSteps_endx (v : VoiceId) :
    ((voiceSteps cfg c sin e).core c).endx.getLsbD v.val =
      (decodeStep cfg (captureSin cfg c sin e).ram v (processKeys (e.core c))).endx.getLsbD v.val := by
  rw [voiceSteps_core_decodedCore, latchOuts_endx, advanceCounters_endx, envelopeVoices_endx]
  exact decodeSteps_endx ..

/-! ## One voice after steps 1 to 9 -/

/-- The step of a counter is the one of before the tick: steps 2 to 6 keep mask, pitch and latched outputs. -/
theorem pitchStep_envelopeVoices_decodedCore (v : VoiceId) :
    pitchStep v (envelopeVoices cfg (decodedCore cfg c sin e)) = pitchStep v (e.core c) := by
  have hpart := (decodedCore_voicePart cfg c sin e).trans (envelopeVoices_voicePart cfg _)
  refine pitchStep_congr hpart.settings.pmon v (hpart.settings.voices v).pitch fun u => ?_
  rw [envelopeVoices_voice, envelopeStep_out, decodedCore_out]

/-- The sample that step 9 scales: the noise level of before the tick, or the queue of step 4 interpolated. -/
def tickSample (v : VoiceId) : Half :=
  if (e.core c).non.getLsbD v.val = true then (e.core c).noise.level
  else interpolate cfg ((decodedCore cfg c sin e).voice v)

theorem voiceSample_tick (v : VoiceId) :
    voiceSample (advanceCounters (envelopeVoices cfg (decodedCore cfg c sin e)))
      (rawSamples cfg (decodedCore cfg c sin e)) v = tickSample cfg c sin e v := by
  have hpart := ((decodedCore_voicePart cfg c sin e).trans (envelopeVoices_voicePart cfg _)).trans
    (advanceCounters_voicePart _)
  rw [voiceSample, voiceBit, hpart.settings.non, hpart.noise, rawSamples_getD, tickSample]

/-- A voice after steps 1 to 9: the voice of step 4, its envelope and volumes moved on, its counter advanced, and its output latched. -/
theorem voiceSteps_voice (v : VoiceId) :
    ((voiceSteps cfg c sin e).core c).voice v =
      latchedVoice cfg (pitchStep v (e.core c)) (tickSample cfg c sin e v) ((decodedCore cfg c sin e).voice v) := by
  rw [voiceSteps_core_decodedCore, latchOuts_voice, voiceSample_tick, advanceCounters_voice, envelopeVoices_voice,
    pitchStep_envelopeVoices_decodedCore, advanceCounter_env, latchedVoice]

end Tick

/-! ## Levels (41_envelope R225) -/

/-- No tick takes a level below 0: it keeps the level or makes a step, which is clamped. -/
theorem envTick_level_nonneg (F : Nat) (a1 a2 : Half) {e : Envelope} (h : 0 ≤ e.level.toInt) :
    0 ≤ (envTick F a1 a2 e).1.level.toInt := by
  have hmove (r : Rate) : 0 ≤ (e.move F r).level.toInt := (envStep_spec F r e.level e.frac).2.1
  obtain ⟨-, ht⟩ | ⟨-, -, ht⟩ | ⟨-, -, ht⟩ | ⟨-, -, ht⟩ | ⟨-, -, ht⟩ | ⟨-, ht⟩ | ⟨-, -, ht⟩ | ⟨-, -, ht⟩ :=
    envTick_cases F a1 a2 e <;> rw [ht]
  · exact h
  · exact h
  · exact hmove _
  · exact h
  · exact hmove _
  · exact hmove _
  · exact h
  · exact hmove _

/-- The level of step 6 scales the output exactly (R371). -/
theorem latchedVoice_out (cfg : Config) (step : Nat) (x : Half) {w : Voice} (h : 0 ≤ w.env.level.toInt) :
    let w' := latchedVoice cfg step x w
    0 ≤ w'.env.level.toInt ∧ w'.out.toInt = x.toInt * w'.env.level.toInt / 2 ^ 15 := by
  have hlevel : 0 ≤ (envelopeStep cfg w).env.level.toInt := envTick_level_nonneg _ _ _ h
  exact ⟨hlevel, postEnvelope_toInt x hlevel⟩

/-- A decode step keeps the envelope or stops it (R270). -/
theorem decodedVoice_level_nonneg (cfg : Config) (m : Memory) (noiseOn : Bool) {w : Voice}
    (h : 0 ≤ w.env.level.toInt) : 0 ≤ (decodedVoice cfg m noiseOn w).env.level.toInt := by
  obtain hlow | hfull := Nat.lt_or_ge w.buf.length 16
  · rw [decodedVoice_of_lt cfg m noiseOn hlow]
    simp only
    split
    · exact Int.le_refl 0
    · exact h
  · rwa [decodedVoice, if_pos hfull]

/-- A key-on starts from level 0, and a key-off keeps the level (R275, R276). -/
theorem processKeys_level_nonneg {k : Core} {v : VoiceId} (h : 0 ≤ (k.voice v).env.level.toInt) :
    0 ≤ ((processKeys k).voice v).env.level.toInt := by
  have hon : 0 ≤ (if k.kon.getLsbD v.val then (k.voice v).keyOn else k.voice v).env.level.toInt := by
    split
    · exact Int.le_refl 0
    · exact h
  rw [processKeys_voice]
  simp only
  split
  · exact hon
  · exact hon

theorem decodedCore_level_nonneg (cfg : Config) (c : CoreId) (sin : Frame) {e : Engine} {v : VoiceId}
    (h : 0 ≤ ((e.core c).voice v).env.level.toInt) :
    0 ≤ ((decodedCore cfg c sin e).voice v).env.level.toInt := by
  rw [decodedCore_voice, decodeStep_voice_same]
  exact decodedVoice_level_nonneg cfg _ _ (processKeys_level_nonneg h)

/-! ## The obligation -/

/-- Step 9 on a core with levels of 0 or more, for every voice and side. -/
theorem latchOuts_outputs (raw : List Half) (k : Core) (hlevel : ∀ v, 0 ≤ (k.voice v).env.level.toInt)
    (v : VoiceId) (ch : Side) :
    let k' := latchOuts raw k
    let w := k.voice v
    let x : Half := if k.non.getLsbD v.val = true then k.noise.level else raw.getD v.val 0
    (k'.voice v).out.toInt = x.toInt * w.env.level.toInt / 2 ^ 15 ∧
    k'.voice v = { w with out := (k'.voice v).out } ∧
    (panned k' ch v).toInt =
      max (-0x8000) (min 0x7FFF ((k'.voice v).out.toInt * (w.vol.get ch).level.toInt / 2 ^ 15)) ∧
    (w.env.level = 0 → (k'.voice v).out = 0 ∧ panned k' ch v = 0) := by
  intro k' w x
  have hvoice : k'.voice v = { w with out := postEnvelope x w.env.level } := latchOuts_voice raw k v
  have hout : (k'.voice v).out = postEnvelope x w.env.level := (congrArg Voice.out hvoice :)
  have hvol : (k'.voice v).vol = w.vol := (congrArg Voice.vol hvoice :)
  refine ⟨?_, ?_, ?_, fun hzero => ?_⟩
  · rw [hout]
    exact postEnvelope_toInt x (hlevel v)
  · rw [hout]
    exact hvoice
  · rw [panned_toInt, hvol]
  · have hsilent : (k'.voice v).out = 0 := by rw [hout, hzero, postEnvelope_zero]
    exact ⟨hsilent, panned_of_silent hsilent ch⟩

/-- Settles O43: step 9 from `latchOuts_outputs`, the table from R291, and the voices of a tick from `voiceSteps_voice`. -/
theorem voiceOutputsAreLatched : Obligations.VoiceOutputsAreLatched := by
  refine ⟨fun raw k _ hlevel => ⟨latchOuts_outputs raw k hlevel, latchOuts_core raw k⟩,
    fun cfg => gaussNormalised_sums cfg.gauss.normalised, fun cfg w b0 b1 b2 b3 rest => interpolate_of_buf cfg,
    fun cfg c sin e => ⟨(voiceSteps_sameBesidesVoices cfg c sin e).eq, voiceSteps_endx cfg c sin e⟩, ?_⟩
  intro cfg c sin e v k w4 w F prev step x
  have hw4 : (decodedCore cfg c sin e).voice v = w4 := decodedCore_voice cfg c sin e v
  have hbuf : 4 ≤ w4.buf.length := hw4 ▸ decodedCore_buf cfg c sin e v
  have hpitch : w4.pitch = (k.voice v).pitch := hw4 ▸ decodedCore_pitch cfg c sin e v
  have hnonneg : (∀ u, 0 ≤ (k.voice u).env.level.toInt) → 0 ≤ w4.env.level.toInt := fun hlevel =>
    hw4 ▸ decodedCore_level_nonneg cfg c sin (hlevel v)
  have hstep : (pitchStep v k : Int) = step := by rw [pitchStep_eq, ← hpitch]
  have hx : tickSample cfg c sin e v = x := by rw [tickSample, hw4]
  have hw : w = latchedVoice cfg (pitchStep v k) x w4 := by
    rw [← hw4, ← hx]
    exact voiceSteps_voice cfg c sin e v
  clear_value w x step w4
  rw [hw, ← hstep]
  exact ⟨latchedVoice_splits cfg (pitchStep_le v k) x w4, hbuf, fun hlevel =>
    latchedVoice_out cfg (pitchStep v k) x (hnonneg hlevel)⟩

end Sys2Proof.Machine


/-! # The DMA engine (46_dma)

`runDma_eq` says what a `RUNDMA` makes of the engine; the obligations on it are its branches. A due burst is the words moved after the countdown (`ordinaryWords`, `autoWords`), then the cursors and counters of the core, then the signal of completion. A whole transfer (R417) is the burst of O54 repeated, under the condition `WriteRemaining` that a burst keeps. -/

namespace Sys2Proof.Machine

/-! ## Signals at the interrupt address (60_exceptions R443, R444) -/

theorem irqHit_iff (cfg : Config) (k : Core) (src : IrqSource) (a : RamAddr) :
    irqHit cfg k src a = true ↔ cfg.irqSources.has src = true ∧ k.attr.getLsbD 6 = true ∧ a = k.irqa := by
  rw [irqHit, irqEnabled_eq]
  simp [and_assoc]

/-- Signals of one core are no completions of a transfer. -/
theorem count_dmaDone_replicate_irq (c : CoreId) (n : Nat) (log : List Event) :
    (List.replicate n (Event.irq c) ++ log).count (.dmaDone c) = log.count (.dmaDone c) := by
  simp [List.count_replicate]

/-! ## RUNDMA (R405, R406) -/

section RunDma

variable (cfg : Config) (missing : Nat → Half) (c : CoreId) (cyc : Nat) (e : Engine)

/-- `RUNDMA`: nothing on an idle engine; else the countdown, and where it has elapsed the kind of burst that is due. -/
theorem runDma_eq :
    runDma cfg missing c cyc e =
      if (e.core c).dma.size = 0 then e
      else if 0 < (e.core c).dma.count - cyc then e.countDown c cyc
      else if (e.core c).dma.dir = .write ∧ (e.core c).admas.getLsbD c.num = true then
        if (e.core c).adma.left = 0 then (e.countDown c cyc).updCore c fun k => k.setCount 0
        else finishBurst cfg c (admaBurst cfg missing c (e.countDown c cyc))
      else finishBurst cfg c (burst cfg missing c (e.countDown c cyc)) := by
  obtain ⟨hidle, h⟩ | ⟨hsize, hcount, h⟩ | ⟨hsize, hcount, hauto, hleft, h⟩ | ⟨hsize, hcount, hauto, hleft, h⟩ |
    ⟨hsize, hcount, hordinary, h⟩ := runDma_cases cfg missing c cyc e
  · rw [h, if_pos hidle]
  · rw [h, if_neg hsize, if_pos hcount, Engine.countDown]
  · rw [h, if_neg hsize, if_neg hcount.not_gt, if_pos hauto, if_pos hleft, Engine.countDown]
  · rw [h, if_neg hsize, if_neg hcount.not_gt, if_pos hauto, if_neg hleft, Engine.countDown]
  · rw [h, if_neg hsize, if_neg hcount.not_gt, if_neg hordinary, Engine.countDown]

variable {c cyc e}

theorem runDma_of_idle (hsize : (e.core c).dma.size = 0) : runDma cfg missing c cyc e = e := by
  rw [runDma_eq, if_pos hsize]

theorem runDma_of_counting (hsize : (e.core c).dma.size ≠ 0) (hcount : 0 < (e.core c).dma.count - cyc) :
    runDma cfg missing c cyc e = e.countDown c cyc := by
  rw [runDma_eq, if_neg hsize, if_pos hcount]

variable (hsize : (e.core c).dma.size ≠ 0) (hcount : (e.core c).dma.count - cyc ≤ 0)
include hsize hcount

theorem runDma_of_waiting (hauto : (e.core c).dma.dir = .write ∧ (e.core c).admas.getLsbD c.num = true)
    (hleft : (e.core c).adma.left = 0) :
    runDma cfg missing c cyc e = (e.countDown c cyc).updCore c fun k => k.setCount 0 := by
  rw [runDma_eq, if_neg hsize, if_neg hcount.not_gt, if_pos hauto, if_pos hleft]

theorem runDma_of_autoBurst (hauto : (e.core c).dma.dir = .write ∧ (e.core c).admas.getLsbD c.num = true)
    (hleft : (e.core c).adma.left ≠ 0) :
    runDma cfg missing c cyc e = finishBurst cfg c (admaBurst cfg missing c (e.countDown c cyc)) := by
  rw [runDma_eq, if_neg hsize, if_neg hcount.not_gt, if_pos hauto, if_neg hleft]

theorem runDma_of_ordinaryBurst
    (hordinary : ¬ ((e.core c).dma.dir = .write ∧ (e.core c).admas.getLsbD c.num = true)) :
    runDma cfg missing c cyc e = finishBurst cfg c (burst cfg missing c (e.countDown c cyc)) := by
  rw [runDma_eq, if_neg hsize, if_neg hcount.not_gt, if_neg hordinary]

end RunDma

section Countdown

variable (c : CoreId) (cyc : Nat) (e : Engine)

@[simp] theorem engine_countDown_ram : (e.countDown c cyc).ram = e.ram := engine_updCore_ram ..
@[simp] theorem engine_countDown_irqstat : (e.countDown c cyc).irqstat = e.irqstat := engine_updCore_irqstat ..
@[simp] theorem engine_countDown_log : (e.countDown c cyc).log = e.log := engine_updCore_log ..

end Countdown

theorem exec_runDma (c : CoreId) (n : Half) (s : State) :
    exec (.runDma c n) s = .next { s with engine := runDma s.cfg (missingWords s) c n.toNat s.engine } := rfl

/-- A `RUNDMA` on an idle engine does nothing. -/
theorem exec_runDma_of_idle {c : CoreId} (n : Half) {s : State} (h : (s.core c).dma.size = 0) :
    exec (.runDma c n) s = .next s := by
  rw [exec_runDma, runDma_of_idle (e := s.engine) _ _ h]

/-- Settles O53: the three branches of `RUNDMA` without a burst. -/
theorem runDmaWithoutABurst : Obligations.RunDmaWithoutABurst := by
  intro c n s k
  refine ⟨fun hidle => ignored_of (exec_runDma_of_idle n hidle), fun hsize hcount => ?_,
    fun hsize hcount hdir hgate hleft => ?_⟩
  · have hrun : runDma s.cfg (missingWords s) c n.toNat s.engine = s.engine.countDown c n.toNat :=
      runDma_of_counting _ _ hsize hcount
    exact writesCore_of (by rw [exec_runDma, hrun]; rfl) rfl
  · have hrun : runDma s.cfg (missingWords s) c n.toNat s.engine =
        s.engine.updCore c fun k => (k.setCount (k.dma.count - n.toNat)).setCount 0 := by
      rw [runDma_of_waiting (e := s.engine) _ _ hsize hcount ⟨hdir, hgate⟩ hleft, Engine.countDown,
        engine_updCore_updCore]
    exact writesCore_of (by rw [exec_runDma, hrun]; rfl) rfl

/-! ## The starts (R402, R403, R414) -/

/-- A start leaves a countdown of at least one cycle, so its `RUNDMA` of 0 cycles moves nothing. -/
theorem runDma_zero_of_start (cfg : Config) (missing : Nat → Half) (c : CoreId) (e : Engine) {f : Core → Core}
    (hcount : (f (e.core c)).dma.count = cfg.dmaStartCycles.val) :
    runDma cfg missing c 0 (e.updCore c f) = e.updCore c f := by
  have hpos := atLeast_one_pos cfg.dmaStartCycles
  have hkeep : (e.updCore c f).countDown c 0 = e.updCore c f := by
    rw [Engine.countDown, engine_updCore_updCore]
    refine engine_ext_cores (by simp) (by simp) (by simp) fun c' => ?_
    by_cases hc : c' = c
    · subst hc
      simp [Core.setCount, Core.updDma]
    · rw [engine_updCore_core_other _ _ hc, engine_updCore_core_other _ _ hc]
  rw [runDma_eq, hkeep, engine_updCore_core_same]
  split
  · rfl
  · rw [if_pos (by omega)]

/-- The core as a write start leaves it. -/
theorem grantAtStart_start (cfg : Config) (c : CoreId) (n : Nat) (stream : List Half) (k : Core) :
    grantAtStart c n (k.updDma fun _ => Dma.start cfg .write n stream) = { k with
      dma := ⟨.write, n, cfg.dmaStartCycles.val, 0, stream⟩
      adma :=
        if k.admas.getLsbD c.num = true ∧ k.adma.left = 0 ∧ 0 < n
        then ⟨16, !k.outPos.getLsbD 8, false⟩ else k.adma } := by
  rw [grantAtStart, admaActive_eq, core_updDma_admas, core_updDma_adma]
  split <;> rfl

theorem exec_dmaWr (c : CoreId) (n : Half) (s : State) :
    exec (.dmaWr c n) s = .next (s.updCore c fun k =>
      grantAtStart c n.toNat (k.updDma fun _ => Dma.start s.cfg .write n.toNat (s.supply.take n.toNat))) := by
  have hrun := runDma_zero_of_start s.cfg (missingWords s) c s.engine
    (f := fun k => grantAtStart c n.toNat (k.updDma fun _ => Dma.start s.cfg .write n.toNat (s.supply.take n.toNat)))
    (by rw [grantAtStart_start])
  exact congrArg (fun e => Host.Outcome.next { s with engine := e }) hrun

theorem exec_dmaRd (c : CoreId) (n : Half) (s : State) :
    exec (.dmaRd c n) s = .next (s.updCore c fun k => k.updDma fun _ => Dma.start s.cfg .read n.toNat []) := by
  have hrun := runDma_zero_of_start s.cfg (missingWords s) c s.engine
    (f := fun k => k.updDma fun _ => Dma.start s.cfg .read n.toNat []) rfl
  exact congrArg (fun e => Host.Outcome.next { s with engine := e }) hrun

/-- Settles O52: a start sets up its core and nothing else, since no burst is due at once (`runDma_zero_of_start`). -/
theorem dmaStarts : Obligations.DmaStarts := fun c n s =>
  ⟨writesCore_of (exec_dmaWr c n s) (grantAtStart_start ..), writesCore_of (exec_dmaRd c n s) rfl⟩

/-! ## The end of a burst (R405, R409) -/

/-- A burst takes all remaining words exactly if at most 32 remain. -/
theorem size_sub_burstLen_eq_zero (d : Dma) : d.size - d.burstLen = 0 ↔ d.size ≤ 32 := by
  rw [Dma.burstLen, burstWords]
  omega

/-- What the end of a burst leaves, of the core as the burst's words and counters leave it. -/
theorem finishBurst_updCore (cfg : Config) (c : CoreId) (e : Engine) (f : Core → Core) :
    let e' := finishBurst cfg c (e.updCore c f)
    e'.ram = e.ram ∧ e'.irqstat = e.irqstat ∧ e'.core c = (f (e.core c)).setCount cfg.dmaBurstCycles.val ∧
    (∀ c', c' ≠ c → e'.core c' = e.core c') ∧
    e'.log = (if (f (e.core c)).dma.size = 0 then [.dmaDone c] else []) ++ e.log := by
  obtain ⟨hram, hirqstat, hcore, hother, hlog⟩ := finishBurst_spec cfg c (e.updCore c f)
  simp only [engine_updCore_ram, engine_updCore_irqstat, engine_updCore_core_same, engine_updCore_log] at *
  exact ⟨hram, hirqstat, hcore, fun c' hc => (hother c' hc).trans (engine_updCore_core_other _ _ hc), hlog⟩

/-! ## Ordinary bursts (R407, R408) -/

section OrdinaryBurst

variable (cfg : Config) (missing : Nat → Half) (c : CoreId) (cyc : Nat) (e : Engine)

/-- The engine after the countdown and the words of the ordinary burst that follows it. -/
def ordinaryWords : Engine := burstLoop cfg missing c (e.core c).dma.burstLen (e.countDown c cyc)

/-- The words of a write burst: the host's words at the cursor on, and one signal for each at the interrupt address. -/
theorem ordinaryWords_write (hdir : (e.core c).dma.dir = .write) :
    let k := e.core c
    let e' := ordinaryWords cfg missing c cyc e
    (∀ i, i < k.dma.burstLen →
      ramRead e'.ram (wrapAdd k.taddr i) = k.dma.hostWord missing (k.dma.hostPos + i)) ∧
    (∀ b, (∀ i, i < k.dma.burstLen → b / 2 ≠ (wrapAdd k.taddr i).toNat) →
      readByte? e'.ram b = readByte? e.ram b) ∧
    e'.log = List.replicate ((List.range k.dma.burstLen).countP fun i => irqHit cfg k .dma (wrapAdd k.taddr i))
      (.irq c) ++ e.log := by
  have hcore := engine_countDown_core_same c cyc e
  obtain ⟨hread, hbyte, -, hlog⟩ := burstLoop_write cfg missing c (e.core c).dma.burstLen (e.countDown c cyc)
    (by rw [hcore]; exact hdir) (dma_burstLen_le _)
  rw [hcore] at hread hbyte hlog
  rw [engine_countDown_ram] at hbyte
  rw [engine_countDown_log] at hlog
  exact ⟨hread, hbyte, hlog⟩

/-- The words of a read burst: each delivered, and followed by its signal where it lies at the interrupt address. -/
theorem ordinaryWords_read (hdir : (e.core c).dma.dir = .read) :
    let k := e.core c
    let e' := ordinaryWords cfg missing c cyc e
    e'.ram = e.ram ∧
    e'.log = ((List.range k.dma.burstLen).flatMap fun i => .dmaWord c (ramRead e.ram (wrapAdd k.taddr i)) ::
      if irqHit cfg k .dma (wrapAdd k.taddr i) then [.irq c] else []).reverse ++ e.log := by
  have hcore := engine_countDown_core_same c cyc e
  obtain ⟨hram, hlog⟩ := burstLoop_read cfg missing c (e.core c).dma.burstLen (e.countDown c cyc)
    (by rw [hcore]; exact hdir)
  rw [hcore, engine_countDown_ram, engine_countDown_log] at hlog
  exact ⟨hram.trans (engine_countDown_ram ..), hlog⟩

/-- An ordinary burst but for its words: the RAM is as they leave it and the record is theirs, with completion in front; core `c` has its cursors moved on and its countdown armed. -/
theorem ordinaryBurst_spec :
    let k := e.core c
    let len := k.dma.burstLen
    let e' := finishBurst cfg c (burst cfg missing c (e.countDown c cyc))
    e'.ram = (ordinaryWords cfg missing c cyc e).ram ∧
    e'.log = (if k.dma.size ≤ 32 then [.dmaDone c] else []) ++ (ordinaryWords cfg missing c cyc e).log ∧
    e'.core c = { k with
      taddr := wrapAdd k.taddr len
      dma := { k.dma with
        size := k.dma.size - len, hostPos := k.dma.hostPos + len, count := cfg.dmaBurstCycles.val } } ∧
    (∀ c', c' ≠ c → e'.core c' = e.core c') ∧
    (∀ c', e'.irqstat.cause c' = true ↔ e.irqstat.cause c' = true ∨
      c' = c ∧ cfg.irqSources.dma = true ∧ k.attr.getLsbD 6 = true ∧ ∃ i, i < len ∧ wrapAdd k.taddr i = k.irqa) ∧
    e'.irqstat.half = e.irqstat.half := by
  intro k len e'
  have hburst : burst cfg missing c (e.countDown c cyc) =
      (ordinaryWords cfg missing c cyc e).updCore c fun k => k.updDma (Dma.shrink len) := by
    rw [burst, countDown_burstLen, ordinaryWords]
  have hwords : BurstFrame cfg c len (e.countDown c cyc) (ordinaryWords cfg missing c cyc e) := burstFrame_loop ..
  have hcore := hwords.core
  have hcause := hwords.cause
  rw [engine_countDown_core_same] at hcore hcause
  obtain ⟨fram, firqstat, fcore, fother, flog⟩ := finishBurst_updCore cfg c (ordinaryWords cfg missing c cyc e)
    fun k => k.updDma (Dma.shrink len)
  rw [← hburst] at fram firqstat fcore fother flog
  rw [hcore] at fcore flog
  refine ⟨fram, flog.trans ?_, fcore, fun c' hc => ?_, fun c' => ?_, ?_⟩
  · exact congrArg (· ++ _) (if_congr (size_sub_burstLen_eq_zero k.dma) rfl rfl)
  · rw [fother c' hc, hwords.other c' hc, engine_countDown_core_other _ _ hc]
  · rw [firqstat, hcause, engine_countDown_irqstat]
    rfl
  · rw [firqstat, hwords.half, engine_countDown_irqstat]

end OrdinaryBurst

/-- Settles O54: the words from `ordinaryWords_write`, the rest of the burst from `ordinaryBurst_spec`. -/
theorem writeBurstMovesWordsToRam : Obligations.WriteBurstMovesWordsToRam := by
  intro c n s k len hit hits hsize hcount hdir hgate
  have hrun := runDma_of_ordinaryBurst (e := s.engine) s.cfg (missingWords s) hsize hcount
    fun hauto => absurd (hgate.symm.trans hauto.2) (by decide)
  obtain ⟨hread, hbyte, hsignals⟩ := ordinaryWords_write s.cfg (missingWords s) c n.toNat s.engine hdir
  obtain ⟨hram, hlog, hcore, hother, hcause, hhalf⟩ :=
    ordinaryBurst_spec s.cfg (missingWords s) c n.toNat s.engine
  rw [← hrun] at hram hlog hcore hother hcause hhalf
  rw [← hram] at hread hbyte
  rw [hsignals, countP_irqHit, ← List.append_assoc] at hlog
  exact ⟨_, exec_runDma c n s, sameOutsideEngine_engine s _, hread,
    fun i hi hstream => (hread i hi).trans (hostWord_of_lt _ hstream), hbyte, hcore, hother, hlog, hcause, hhalf⟩

/-- Settles O55: the words from `ordinaryWords_read`, the rest of the burst from `ordinaryBurst_spec`. -/
theorem readBurstDeliversWords : Obligations.ReadBurstDeliversWords := by
  intro c n s k len hit hsize hcount hdir
  have hrun := runDma_of_ordinaryBurst (e := s.engine) s.cfg (missingWords s) hsize hcount
    fun hauto => absurd (hdir.symm.trans hauto.1) (by decide)
  obtain ⟨hkeep, hwords⟩ := ordinaryWords_read s.cfg (missingWords s) c n.toNat s.engine hdir
  obtain ⟨hram, hlog, hcore, hother, hcause, hhalf⟩ :=
    ordinaryBurst_spec s.cfg (missingWords s) c n.toNat s.engine
  rw [← hrun] at hram hlog hcore hother hcause hhalf
  simp only [hwords, irqHit_iff, ← List.append_assoc] at hlog
  exact ⟨_, exec_runDma c n s, sameOutsideEngine_engine s _,
    fun a => congrArg (readByte? · a) (hram.trans hkeep), hcore, hother, hlog, hcause, hhalf⟩

/-! ## Auto-DMA bursts (R411, R412) -/

/-- The number of the first word of a chunk: `chunkBase` before it is cut to an address. -/
def chunkStart (c : CoreId) (idx : Nat) (half : Bool) : Nat :=
  0x2000 + c.num * 0x400 + idx / 8 * 0x200 + (if half = true then 0x100 else 0) + idx % 8 * 32

theorem wrapAdd_chunkBase (c : CoreId) (idx : Nat) (half : Bool) (i : Nat) :
    wrapAdd (chunkBase c idx half) i = BitVec.ofNat 20 (chunkStart c idx half + i) := by
  rw [wrapAdd, chunkBase, ← BitVec.ofNat_add, chunkStart]
  cases half <;> rfl

/-- The chunks of a sequence lie in the input areas of their core (20_memory R76). -/
theorem chunkStart_bounds (c : CoreId) {idx n : Nat} (half : Bool) (hidx : idx < 16) (hn : n ≤ 32) :
    0x2000 + c.num * 0x400 ≤ chunkStart c idx half ∧ chunkStart c idx half + n ≤ 0x2400 + c.num * 0x400 := by
  rw [chunkStart]
  split <;> omega

/-- So a word of a chunk is at its own number. -/
theorem toNat_chunkWord (c : CoreId) {idx i : Nat} (half : Bool) (hidx : idx < 16) (hi : i < 32) :
    (BitVec.ofNat 20 (chunkStart c idx half + i)).toNat = chunkStart c idx half + i := by
  obtain ⟨-, hend⟩ := chunkStart_bounds c half hidx hi
  have hcore : c.num ≤ 1 := by cases c <;> decide
  rw [BitVec.toNat_ofNat]
  omega

section AutoBurst

variable (cfg : Config) (missing : Nat → Half) (c : CoreId) (cyc : Nat) (e : Engine)

/-- The chunk that the sequence counter of a core selects. -/
def Core.chunkIndex (k : Core) : Nat := 16 - k.adma.left.val

theorem chunkIndex_lt {k : Core} (h : k.adma.left ≠ 0) : k.chunkIndex < 16 := by
  have hpos : k.adma.left.val ≠ 0 := fun h0 => h (Fin.ext h0)
  rw [Core.chunkIndex]
  omega

/-- The engine after the countdown and the words of the Auto-DMA burst that follows it. -/
def autoWords : Engine :=
  admaLoop cfg missing c (chunkBase c (e.core c).chunkIndex (e.core c).adma.half) (e.core c).dma.burstLen 0
    (e.countDown c cyc)

/-- The words of an Auto-DMA burst: the host's words in the chunk, and the RAM outside it as before. -/
theorem autoWords_ram (hleft : (e.core c).adma.left ≠ 0) :
    let k := e.core c
    let base := chunkStart c k.chunkIndex k.adma.half
    let e' := autoWords cfg missing c cyc e
    (∀ i, i < k.dma.burstLen →
      ramRead e'.ram (BitVec.ofNat 20 (base + i)) = k.dma.hostWord missing (k.dma.hostPos + i)) ∧
    (∀ b, ¬ (base ≤ b / 2 ∧ b / 2 < base + k.dma.burstLen) → readByte? e'.ram b = readByte? e.ram b) := by
  intro k base e'
  have hlen := dma_burstLen_le k.dma
  obtain ⟨hread, hbyte, -⟩ := admaLoop_ram cfg missing c (chunkBase c k.chunkIndex k.adma.half) k.dma.burstLen 0
    (e.countDown c cyc) (by omega)
  simp only [wrapAdd_chunkBase, engine_countDown_core_same, engine_countDown_ram, Nat.zero_add] at hread hbyte
  refine ⟨fun i hi => hread i (Nat.zero_le i) hi, fun b hb => hbyte b fun i _ hi hbi => hb ?_⟩
  rw [toNat_chunkWord c _ (chunkIndex_lt hleft) (by omega)] at hbi
  exact ⟨hbi ▸ Nat.le_add_right _ i, hbi ▸ Nat.add_lt_add_left hi _⟩

/-- The signals of an Auto-DMA burst: one for each word of the chunk at the interrupt address. -/
theorem autoWords_signals :
    let k := e.core c
    let base := chunkStart c k.chunkIndex k.adma.half
    let e' := autoWords cfg missing c cyc e
    e'.log = List.replicate
        ((List.range k.dma.burstLen).countP fun i => irqHit cfg k .dma (BitVec.ofNat 20 (base + i))) (.irq c) ++ e.log ∧
    (∀ c', e'.irqstat.cause c' = true ↔ e.irqstat.cause c' = true ∨
      c' = c ∧ cfg.irqSources.dma = true ∧ k.attr.getLsbD 6 = true ∧
        ∃ i, i < k.dma.burstLen ∧ BitVec.ofNat 20 (base + i) = k.irqa) ∧
    e'.irqstat.half = e.irqstat.half := by
  intro k base e'
  have hsignals := signals_admaLoop cfg missing c (chunkBase c k.chunkIndex k.adma.half) k.dma.burstLen 0
    (e.countDown c cyc)
  have hcause := admaLoop_cause cfg missing c (chunkBase c k.chunkIndex k.adma.half) k.dma.burstLen 0
    (e.countDown c cyc)
  simp only [wrapAdd_chunkBase, engine_countDown_core_same, engine_countDown_irqstat, Nat.zero_add, Nat.zero_le,
    true_and] at hsignals hcause
  exact ⟨hsignals.log.trans (by rw [engine_countDown_log]; rfl), hcause,
    hsignals.half.trans (by rw [engine_countDown_irqstat])⟩

/-- An Auto-DMA burst but for its words: the RAM, the status and the record are as they leave them, with completion in front; core `c` has its counters moved on and its countdown armed. -/
theorem autoBurst_spec :
    let k := e.core c
    let len := k.dma.burstLen
    let e' := finishBurst cfg c (admaBurst cfg missing c (e.countDown c cyc))
    e'.ram = (autoWords cfg missing c cyc e).ram ∧ e'.irqstat = (autoWords cfg missing c cyc e).irqstat ∧
    e'.log = (if k.dma.size ≤ 32 then [.dmaDone c] else []) ++ (autoWords cfg missing c cyc e).log ∧
    e'.core c = { k with
      dma := { k.dma with
        size := k.dma.size - len, hostPos := k.dma.hostPos + len, count := cfg.dmaBurstCycles.val }
      adma :=
        if k.adma.left = 1 ∧ k.adma.pending = true then
          (if 32 < k.dma.size then ⟨16, !k.outPos.getLsbD 8, false⟩ else ⟨0, k.adma.half, false⟩)
        else { k.adma with left := k.adma.left - 1 } } ∧
    (∀ c', c' ≠ c → e'.core c' = e.core c') := by
  intro k len e'
  have hburst : admaBurst cfg missing c (e.countDown c cyc) =
      (autoWords cfg missing c cyc e).updCore c (Core.endAdmaBurst len) := by
    rw [admaBurst, countDown_burstLen, engine_countDown_core_same]
    rfl
  have hcore (c' : CoreId) : (autoWords cfg missing c cyc e).core c' = (e.countDown c cyc).core c' :=
    admaLoop_core ..
  have hend := endAdmaBurst_setCount k len (k.dma.count - cyc) cfg.dmaBurstCycles.val
  have hsize : ((k.setCount (k.dma.count - cyc)).endAdmaBurst len).dma.size = k.dma.size - len :=
    congrArg (fun k : Core => k.dma.size) hend
  have hmore : 0 < k.dma.size - len ↔ 32 < k.dma.size := by
    have hdone := size_sub_burstLen_eq_zero k.dma
    omega
  obtain ⟨fram, firqstat, fcore, fother, flog⟩ :=
    finishBurst_updCore cfg c (autoWords cfg missing c cyc e) (Core.endAdmaBurst len)
  rw [← hburst] at fram firqstat fcore fother flog
  rw [hcore, engine_countDown_core_same] at fcore flog
  simp only [hmore] at hend
  refine ⟨fram, firqstat, flog.trans ?_, fcore.trans hend, fun c' hc => ?_⟩
  · rw [hsize]
    exact congrArg (· ++ _) (if_congr (size_sub_burstLen_eq_zero k.dma) rfl rfl)
  · rw [fother c' hc, hcore, engine_countDown_core_other _ _ hc]

end AutoBurst

/-- Settles O56: the words from `autoWords_ram`, their signals from `autoWords_signals`, the place of the chunk from `chunkStart_bounds`, and the counters from `autoBurst_spec`. -/
theorem autoDmaBurstFillsInputArea : Obligations.AutoDmaBurstFillsInputArea := by
  intro c n s k len idx base hit hits hsize hcount hdir hgate hleft
  have hrun := runDma_of_autoBurst (e := s.engine) s.cfg (missingWords s) hsize hcount ⟨hdir, hgate⟩ hleft
  obtain ⟨hread, hbyte⟩ := autoWords_ram s.cfg (missingWords s) c n.toNat s.engine hleft
  obtain ⟨hsignals, hcause, hhalf⟩ := autoWords_signals s.cfg (missingWords s) c n.toNat s.engine
  obtain ⟨hlow, hhigh⟩ := chunkStart_bounds c k.adma.half (chunkIndex_lt hleft) (dma_burstLen_le k.dma)
  obtain ⟨hram, hirqstat, hlog, hcore, hother⟩ := autoBurst_spec s.cfg (missingWords s) c n.toNat s.engine
  rw [← hrun] at hram hirqstat hlog hcore hother
  rw [← hram] at hread hbyte
  rw [← hirqstat] at hcause hhalf
  rw [hsignals, countP_irqHit, ← List.append_assoc] at hlog
  exact ⟨_, exec_runDma c n s, sameOutsideEngine_engine s _, hread,
    fun i hi hstream => (hread i hi).trans (hostWord_of_lt _ hstream), hbyte, hlow, hhigh, hcore, hother, hlog,
    hcause, hhalf⟩

/-! ## A whole write transfer (R417) -/

/-- An ordinary write of which `q` whole bursts remain, each due after `m` cycles. -/
structure WriteRemaining (c : CoreId) (m : Half) (q : Nat) (s : State) : Prop where
  dir : (s.core c).dma.dir = .write
  gate : (s.core c).admas.getLsbD c.num = false
  size : (s.core c).dma.size = 32 * q
  count_le : (s.core c).dma.count ≤ m.toNat
  rearm_le : s.cfg.dmaBurstCycles.val ≤ m.toNat

theorem performTimes_succ_of_next {i : Instr} {s t : State} (h : exec i s = .next t) (n : Nat) :
    performTimes i (n + 1) s = performTimes i n t := by
  rw [performTimes, h]

/-- A start of `32 * q` words leaves `q` bursts, and the record as it was. -/
theorem exec_dmaWr_writeRemaining {c : CoreId} {q : Nat} {m : Half} {s : State}
    (hgate : (s.core c).admas.getLsbD c.num = false) (hq : 32 * q < 2 ^ 16)
    (hstart : s.cfg.dmaStartCycles.val ≤ m.toNat) (hrearm : s.cfg.dmaBurstCycles.val ≤ m.toNat) :
    ∃ t, exec (.dmaWr c (BitVec.ofNat 16 (32 * q))) s = .next t ∧ WriteRemaining c m q t ∧
      t.engine.log = s.engine.log := by
  obtain ⟨⟨t, hexec, hbesides, -, hcore⟩, -⟩ := dmaStarts c (BitVec.ofNat 16 (32 * q)) s
  rw [BitVec.toNat_ofNat, Nat.mod_eq_of_lt hq] at hcore
  refine ⟨t, hexec, ⟨?_, ?_, ?_, ?_, ?_⟩, hbesides.log⟩
  · rw [hcore]
  · rw [hcore]
    exact hgate
  · rw [hcore]
  · rw [hcore]
    exact Int.ofNat_le.2 hstart
  · rw [hbesides.outside.cfg]
    exact hrearm

/-- A due burst takes one burst off, and signals completion exactly if it was the last. -/
theorem exec_runDma_writeRemaining {c : CoreId} {m : Half} {q : Nat} {s : State} (h : WriteRemaining c m (q + 1) s) :
    ∃ t, exec (.runDma c m) s = .next t ∧ WriteRemaining c m q t ∧
      t.engine.log.count (.dmaDone c) = s.engine.log.count (.dmaDone c) + if q = 0 then 1 else 0 := by
  obtain ⟨hdir, hgate, hsize, hcount, hrearm⟩ := h
  obtain ⟨t, hexec, houtside, -, -, -, hcore, -, hlog, -⟩ :=
    writeBurstMovesWordsToRam c m s (by omega) (by omega) hdir hgate
  refine ⟨t, hexec, ⟨?_, ?_, ?_, ?_, ?_⟩, ?_⟩
  · rw [hcore]
    exact hdir
  · rw [hcore]
    exact hgate
  · rw [hcore]
    simp only
    omega
  · rw [hcore]
    exact Int.ofNat_le.2 hrearm
  · rw [houtside.cfg]
    exact hrearm
  · have hlast : (s.core c).dma.size ≤ 32 ↔ q = 0 := by omega
    rw [hlog, List.append_assoc, List.count_append, count_dmaDone_replicate_irq, Nat.add_comm, if_congr hlast rfl rfl]
    split <;> simp

/-- `j` due bursts take `j` bursts off; the record gains one completion exactly if the last burst is among them. -/
theorem performTimes_runDma_writeRemaining {c : CoreId} {m : Half} (j : Nat) {q : Nat} {s : State}
    (h : WriteRemaining c m q s) (hj : j ≤ q) :
    ∃ t, performTimes (.runDma c m) j s = some t ∧ WriteRemaining c m (q - j) t ∧
      t.engine.log.count (.dmaDone c) = s.engine.log.count (.dmaDone c) + if 0 < j ∧ j = q then 1 else 0 := by
  induction j generalizing q s with
  | zero => exact ⟨s, rfl, h, rfl⟩
  | succ j ih =>
    obtain ⟨p, rfl⟩ : ∃ p, q = p + 1 := ⟨q - 1, by omega⟩
    obtain ⟨s', hexec, hs', hcount'⟩ := exec_runDma_writeRemaining h
    obtain ⟨t, hperform, ht, hcount⟩ := ih hs' (by omega)
    refine ⟨t, (performTimes_succ_of_next hexec j).trans hperform, ?_, ?_⟩
    · rwa [Nat.add_sub_add_right]
    · rw [hcount, hcount']
      split_ifs <;> omega

/-- Settles O57, by induction on the bursts (`performTimes_runDma_writeRemaining`). -/
theorem dmaWriteCompletes : Obligations.DmaWriteCompletes := by
  intro c q m s hgate hq hlt hstart hrearm
  obtain ⟨t0, hexec, h0, hlog⟩ := exec_dmaWr_writeRemaining hgate hlt hstart hrearm
  refine ⟨t0, hexec, fun j hj => ?_, ?_⟩
  · obtain ⟨t, hperform, ht, hcount⟩ := performTimes_runDma_writeRemaining j h0 hj
    have hdone : (0 < j ∧ j = q) ↔ j = q := by omega
    rw [hlog, if_congr hdone rfl rfl] at hcount
    exact ⟨t, hperform, ht.size, hcount⟩
  · obtain ⟨t, hperform, ht, -⟩ := performTimes_runDma_writeRemaining q h0 le_rfl
    have hidle : (t.core c).dma.size = 0 := by rw [ht.size, Nat.sub_self]
    exact ⟨t, hperform, exec_runDma_of_idle m hidle⟩

end Sys2Proof.Machine

/-! # Interrupt causes and reset (60_exceptions, 70_reset)

A cause bit falls in two places only, the acknowledgement and `RESET`: every other effect of an operation (`OpEffect`) keeps it, the bursts because an address test can only raise. The signals of a tick before the reverb are counted part by part and added up (`SignalsSent`), since between the tests the voices change. -/

namespace Sys2Proof.Machine

/-! ## Causes under the DMA engine (60_exceptions R445) -/

/-- Every cause bit that is set stays set. -/
structure CausesKept (e e' : Engine) : Prop where
  cause : ∀ c, e.irqstat.cause c = true → e'.irqstat.cause c = true

theorem CausesKept.trans {a b d : Engine} (h : CausesKept a b) (g : CausesKept b d) : CausesKept a d :=
  ⟨fun c hc => g.cause c (h.cause c hc)⟩

theorem causesKept_of_irqstat {e e' : Engine} (h : e'.irqstat = e.irqstat) : CausesKept e e' :=
  ⟨fun c hc => (congrArg (IrqStat.cause · c) h).trans hc⟩

theorem causesKept_updCore (e : Engine) (c : CoreId) (f : Core → Core) : CausesKept e (e.updCore c f) :=
  causesKept_of_irqstat (engine_updCore_irqstat ..)

theorem causesKept_burst (cfg : Config) (missing : Nat → Half) (c : CoreId) (e : Engine) :
    CausesKept e (burst cfg missing c e) := by
  unfold burst
  have hwords : CausesKept e (burstLoop cfg missing c (e.core c).dma.burstLen e) :=
    ⟨fun c' hc => ((burstFrame_loop ..).cause c').2 (.inl hc)⟩
  exact hwords.trans (causesKept_updCore ..)

theorem causesKept_admaBurst (cfg : Config) (missing : Nat → Half) (c : CoreId) (e : Engine) :
    CausesKept e (admaBurst cfg missing c e) := by
  unfold admaBurst
  have hwords (base : RamAddr) (n : Nat) : CausesKept e (admaLoop cfg missing c base n 0 e) :=
    ⟨fun c' hc => ((signals_admaLoop ..).cause c').2 (.inl hc)⟩
  exact (hwords _ _).trans (causesKept_updCore ..)

theorem causesKept_finishBurst (cfg : Config) (c : CoreId) (e : Engine) : CausesKept e (finishBurst cfg c e) := by
  obtain ⟨-, hirqstat, -⟩ := finishBurst_spec cfg c e
  exact causesKept_of_irqstat hirqstat

theorem causesKept_runDma (cfg : Config) (missing : Nat → Half) (c : CoreId) (cyc : Nat) (e : Engine) :
    CausesKept e (runDma cfg missing c cyc e) := by
  have hcount : CausesKept e (e.updCore c fun k => k.setCount (k.dma.count - cyc)) := causesKept_updCore ..
  obtain ⟨-, idle⟩ | ⟨-, -, counting⟩ | ⟨-, -, -, -, waiting⟩ | ⟨-, -, -, -, auto⟩ | ⟨-, -, -, ordinary⟩ :=
    runDma_cases cfg missing c cyc e
  · rw [idle]
    exact causesKept_of_irqstat rfl
  · rw [counting]
    exact hcount
  · rw [waiting]
    exact hcount.trans (causesKept_updCore ..)
  · rw [auto]
    exact (hcount.trans (causesKept_admaBurst ..)).trans (causesKept_finishBurst ..)
  · rw [ordinary]
    exact (hcount.trans (causesKept_burst ..)).trans (causesKept_finishBurst ..)

/-! ## Causes under an operation (60_exceptions R445, 10_state R21) -/

/-- A write of `ATTR` clears the cause of its own core alone, and that only with `IrqEnable` clear. -/
theorem writeAttr_cause {c c' : CoreId} {d : Half} (h : c' = c → d.getLsbD 6 = true) (s : State) :
    (writeAttr c d s).engine.irqstat.cause c' = s.engine.irqstat.cause c' := by
  cases hbit : d.getLsbD 6 with
  | true => rw [writeAttr_of_enabled hbit, state_updCore_engine, engine_updCore_irqstat]
  | false =>
    have hother : c' ≠ c := fun hc => absurd (hbit.symm.trans (h hc)) (by decide)
    rw [writeAttr_of_disabled hbit, acknowledgeIrq_irqstat, irqStat_cause_setCause_other _ _ hother,
      engine_updCore_irqstat]

/-- An access to an unmapped register that completes records itself and, if it is a read, the value 0. -/
theorem execUnmapped_irqstat {s t : State} {ra : Half} {a : Access} (h : execUnmapped ra a s = .next t) :
    t.engine.irqstat = s.engine.irqstat := by
  have hrelease := unmappedRelease_of_execUnmapped h
  cases a with
  | read => cases hrelease; rfl
  | write d => cases hrelease; rfl

/-- Every effect but `RESET` and the acknowledging write of the core's own `ATTR` keeps a cause that is set. -/
theorem OpEffect.cause_kept {s t : State} {i : Instr} {r : Result} (heffect : OpEffect s i r) (hr : r = .next t)
    {c : CoreId} (hc : s.engine.irqstat.cause c = true) (hreset : i ≠ .reset)
    (hattr : ∀ d, i = .attr c (.write d) → d.getLsbD 6 = true) : t.engine.irqstat.cause c = true := by
  cases heffect with
  | returned => cases hr; exact hc
  | ignored => cases hr; exact hc
  | coreWritten _ c' f => cases hr; exact (causesKept_updCore s.engine c' f).cause c hc
  | attrWritten c' d =>
    cases hr
    rw [writeAttr_cause fun hcore => hattr d (by rw [hcore])]
    exact hc
  | spdifWritten => cases hr; exact hc
  | unmapped => rw [execUnmapped_irqstat hr]; exact hc
  | run n =>
    cases hr
    exact (runTicks_spec _ { s with runAcc := s.runAcc + n.toNat }).1.cause c hc
  | runDma => cases hr; exact (causesKept_runDma ..).cause c hc
  | dmaWr => cases hr; exact ((causesKept_updCore ..).trans (causesKept_runDma ..)).cause c hc
  | dmaRd => cases hr; exact ((causesKept_updCore ..).trans (causesKept_runDma ..)).cause c hc
  | reset => exact absurd rfl hreset

/-- Settles O51, from the effects of the operations: each but the two excepted keeps the cause. -/
theorem causeStaysUntilAcknowledged : Obligations.CauseStaysUntilAcknowledged :=
  fun i _ s _ hexec hc hreset hattr => (exec_effect i s).cause_kept hexec hc hreset hattr

/-! ## Completion (60_exceptions R440) -/

/-- Every effect ends in a next state, but for an unmapped access in the debug build. -/
theorem OpEffect.completes {s : State} {i : Instr} {r : Result} (heffect : OpEffect s i r) :
    (∃ t, r = .next t) ∨
      (s.cfg.build = .debug ∧ ∃ ra acc w, i = .unmapped ra acc ∧ r = .fault (.unmappedRegister ra w)) := by
  cases heffect with
  | unmapped ra a =>
    cases hbuild : s.cfg.build with
    | debug => exact .inr ⟨rfl, ra, a, accessIsWrite a, rfl, execUnmapped_debug hbuild ra a⟩
    | release =>
      rw [execUnmapped_release hbuild]
      cases a with
      | read => exact .inl ⟨_, rfl⟩
      | write d => exact .inl ⟨_, rfl⟩
  | _ => exact .inl ⟨_, rfl⟩

/-- Settles O25, from the effects of the operations. -/
theorem everyOperationCompletes : Obligations.EveryOperationCompletes := fun i s => (exec_effect i s).completes

/-! ## Signals while the cores change (60_exceptions R443, R444) -/

/-- `n` signals of core `c` are sent and its cause bit is set if there is one. Cores, half bit and RAM are left open. -/
structure SignalsSent (c : CoreId) (n : Nat) (e e' : Engine) : Prop where
  log : e'.log = List.replicate n (.irq c) ++ e.log
  cause : ∀ c', e'.irqstat.cause c' = true ↔ e.irqstat.cause c' = true ∨ c' = c ∧ 0 < n

theorem Signals.sent {c : CoreId} {n : Nat} {e e' : Engine} (h : Signals c n e e') : SignalsSent c n e e' :=
  ⟨h.log, h.cause⟩

/-- Updates that touch neither the record nor the interrupt status leave the count. -/
theorem SignalsSent.of_eq {c : CoreId} {n : Nat} {e e' d d' : Engine} (h : SignalsSent c n e e')
    (hlog : d.log = e.log) (hirqstat : d.irqstat = e.irqstat) (hlog' : d'.log = e'.log)
    (hirqstat' : d'.irqstat = e'.irqstat) : SignalsSent c n d d' :=
  ⟨by rw [hlog', h.log, hlog], fun c' => by rw [hirqstat', h.cause, hirqstat]⟩

theorem SignalsSent.trans {c : CoreId} {m n : Nat} {a b d : Engine} (h : SignalsSent c m a b)
    (g : SignalsSent c n b d) : SignalsSent c (m + n) a d := by
  refine ⟨?_, fun c' => ?_⟩
  · rw [g.log, h.log, ← List.append_assoc, List.replicate_append_replicate, Nat.add_comm]
  · rw [g.cause, h.cause, Nat.add_pos_iff_pos_or_pos, or_assoc, ← and_or_left]

/-! ## The address tests of a tick before the reverb (45_mixer R365, R367, R373) -/

/-- The voices of a core whose cursor hits. -/
def voiceHits (cfg : Config) (k : Core) : Nat := voiceIds.countP fun v => irqHit cfg k .voice (k.voice v).nax

theorem voiceHits_eq (cfg : Config) (k : Core) :
    voiceHits cfg k =
      if cfg.irqSources.voice = true ∧ k.attr.getLsbD 6 = true
      then (List.finRange 24).countP fun v => (k.voice v).nax == k.irqa else 0 :=
  countP_irqHit ..

theorem signals_testVoices (cfg : Config) (c : CoreId) (e : Engine) :
    Signals c (voiceHits cfg (e.core c)) e (testVoices cfg c e) :=
  signals_irqTests cfg c .voice (fun k v => (k.voice v).nax) voiceIds e

/-- The sound-in capture words of a core that hit. -/
def sinHits (cfg : Config) (c : CoreId) (k : Core) : Nat :=
  [CaptureArea.sinL, .sinR].countP (captureHit cfg c k)

theorem sinHits_eq (cfg : Config) (c : CoreId) (k : Core) :
    sinHits cfg c k =
      if cfg.irqSources.capture = true ∧ k.attr.getLsbD 6 = true
      then [(cfg.captureSet.sinL, 0), (cfg.captureSet.sinR, 1)].countP fun area =>
        area.1 && BitVec.ofNat 20 (c.num * 0x1000 + area.2 * 0x200 + k.outPos.toNat) == k.irqa
      else 0 := by
  rw [sinHits, countP_captureHit]
  simp only [captureAddr_eq]
  rfl

/-- The memory-in words of a core that hit. -/
def meminHits (cfg : Config) (c : CoreId) (k : Core) : Nat :=
  [Side.left, .right].countP fun ch => irqHit cfg k .memin (inputAddr c ch k.outPos)

theorem meminHits_eq (cfg : Config) (c : CoreId) (k : Core) :
    meminHits cfg c k =
      if cfg.irqSources.memin = true ∧ k.attr.getLsbD 6 = true
      then [0, 1].countP fun ch =>
        BitVec.ofNat 20 (0x2000 + c.num * 0x400 + ch * 0x200 + k.outPos.toNat) == k.irqa
      else 0 :=
  countP_irqHit ..

/-- The voices and the key events do not move the position, `IRQA` or `IrqEnable`. -/
theorem meminHits_of_voicePart (cfg : Config) (c : CoreId) {k k' : Core} (h : k.VoicePart k') :
    meminHits cfg c k' = meminHits cfg c k := by
  simp only [meminHits, irqHit, irqEnabled_eq, h.outPos, h.settings.attr, h.settings.irqa]

/-- Steps 4 to 9 test no address. -/
theorem signalsSent_voiceSteps (cfg : Config) (c : CoreId) (sin : Frame) (e : Engine) :
    SignalsSent c (sinHits cfg c (e.core c) + voiceHits cfg (processKeys (e.core c))) e (voiceSteps cfg c sin e) := by
  have hvoices := signals_testVoices cfg c ((captureSin cfg c sin e).updCore c processKeys)
  rw [engine_updCore_core_same, captureSin_core] at hvoices
  refine (signals_captureSin cfg c sin e).sent.trans (hvoices.sent.of_eq ?_ ?_ ?_ ?_) <;>
    simp [voiceSteps, decodeVoices]

theorem signalsSent_beforeReverb (cfg : Config) (c : CoreId) (sin : Frame) (e : Engine) :
    SignalsSent c (sinHits cfg c (e.core c) + voiceHits cfg (processKeys (e.core c)) + meminHits cfg c (e.core c)) e
      (readMemins cfg c (voiceSteps cfg c sin e)).1 := by
  have hmemins := (signals_readMemins cfg c (voiceSteps cfg c sin e)).sent
  have hhits : meminHits cfg c ((voiceSteps cfg c sin e).core c) = meminHits cfg c (e.core c) :=
    meminHits_of_voicePart cfg c (voiceSteps_voicePart ..)
  rw [← hhits]
  exact (signalsSent_voiceSteps ..).trans hmemins

@[simp] theorem readMemins_ram (cfg : Config) (c : CoreId) (e : Engine) : (readMemins cfg c e).1.ram = e.ram := by
  simp [readMemins, readMemin]

/-- What steps 1 to 9 raise is still set at the end of the tick. -/
theorem tick_cause_of_voiceSteps {cfg : Config} {c : CoreId} {sin : Frame} {e : Engine} {c' : CoreId}
    (h : (voiceSteps cfg c sin e).irqstat.cause c' = true) : (tick cfg c sin e).1.irqstat.cause c' = true := by
  rw [tick_engine, engine_updCore_irqstat]
  exact (tickFrame_advancePosition cfg c _).cause c' ((tickFrame_beforePosition cfg c sin _).cause c' h)

theorem voiceHits_pos {cfg : Config} {k : Core} {v : VoiceId} (hsource : cfg.irqSources.voice = true)
    (henable : k.attr.getLsbD 6 = true) (hnax : (k.voice v).nax = k.irqa) : 0 < voiceHits cfg k :=
  List.countP_pos_iff.2 ⟨v, mem_voiceIds v, (irqHit_iff ..).2 ⟨hsource, henable, hnax⟩⟩

/-- Settles O50: the test itself from `irqTest_hit` and `irqTest_cases`, what the steps test from the counts of their signals. -/
theorem addressMatchInterrupt : Obligations.AddressMatchInterrupt := by
  refine ⟨fun cfg c a src e => ?_, fun cfg c e => ?_, fun cfg c sin e => ?_, fun cfg c sin e v => ?_⟩
  · intro hit e'
    refine ⟨fun hmiss => ?_, fun ⟨hsource, henable, haddr⟩ => ?_⟩
    · obtain ⟨-, hhit⟩ | ⟨hsame, -⟩ := irqTest_cases cfg c a src e
      · rw [irqEnabled_eq] at hhit
        exact absurd hhit hmiss
      · exact hsame
    · have hraise : e' = raiseIrq c e := irqTest_hit hsource ((irqEnabled_eq _).trans henable) haddr
      rw [hraise]
      exact ⟨by simp, by simp, fun c' hc => irqStat_cause_setCause_other _ _ hc, by simp, by simp, by simp⟩
  · intro k hits e'
    have hsignals := signals_testVoices cfg c e
    rw [voiceHits_eq] at hsignals
    exact ⟨hsignals.log, hsignals.cause, hsignals.half, testVoices_ram .., hsignals.cores⟩
  · intro k counted captured voices memins hits e'
    have hkeys := (processKeys_voicePart k).settings
    have hhits : sinHits cfg c k + voiceHits cfg (processKeys k) + meminHits cfg c k = hits := by
      rw [sinHits_eq, voiceHits_eq, meminHits_eq, hkeys.attr, hkeys.irqa]
    have hsent := signalsSent_beforeReverb cfg c sin e
    rw [hhits] at hsent
    exact ⟨hsent.log, hsent.cause, (readMemins_ram ..).trans (voiceSteps_ram ..),
      fun c' => readMemins_core cfg c c' (voiceSteps cfg c sin e)⟩
  · intro k hsource henable hnax
    have hkeys := (processKeys_voicePart k).settings
    have hpos : 0 < voiceHits cfg (processKeys k) :=
      voiceHits_pos hsource (by rw [hkeys.attr]; exact henable) (by rw [hkeys.irqa]; exact hnax)
    exact tick_cause_of_voiceSteps
      (((signalsSent_voiceSteps cfg c sin e).cause c).2 (.inr ⟨rfl, Nat.add_pos_right _ hpos⟩))

/-! ## Reset (70_reset R470, R471) -/

theorem resetBlock_core (s : State) (c : CoreId) : (resetBlock s).core c = Core.reset := by
  cases c <;> rfl

theorem coreReset_off (o : RvbOffset) (i : Side) : Core.reset.off o i = 0 := by simp [Core.off, Core.reset]

theorem coreReset_coef (n : RvbCoef) : Core.reset.coef n = 0 := by simp [Core.coef, Core.reset]

theorem coreReset_voice (v : VoiceId) : Core.reset.voice v = Voice.reset := by simp [Core.voice, Core.reset]

theorem rvbReset_histories (ch : Side) :
    (RvbWork.reset.down.get ch).toList = List.replicate 39 0 ∧
      (RvbWork.reset.up.get ch).toList = List.replicate 39 0 := by
  cases ch <;> exact ⟨rfl, rfl⟩

/-- Settles O58: each core is `Core.reset`, and the table of reset values is read off it. -/
theorem resetState : Obligations.ResetState := by
  intro s
  refine ⟨resetBlock s, rfl, fun _ => rfl, rfl, rfl, rfl, rfl, rfl, rfl, rfl, rfl, rfl, rfl, fun c => ?_⟩
  rw [resetBlock_core]
  refine ⟨rfl, rfl, rfl, rfl, rfl, rfl, rfl, rfl, rfl, rfl, rfl, rfl, rfl, rfl, rfl, rfl, rfl, rfl, rfl, rfl, rfl,
    rfl, coreReset_off, coreReset_coef, rfl, rfl, rvbReset_histories, rfl, rfl, rfl, rfl, rfl, rfl, rfl, fun v => ?_⟩
  rw [coreReset_voice]
  exact ⟨rfl, rfl, rfl, rfl, rfl, rfl, rfl, rfl, rfl, rfl, rfl, rfl, rfl, rfl, rfl⟩

theorem powerOn_inv (cfg : Config) : (State.powerOn cfg).Inv :=
  ⟨⟨rfl, coreReset_ok _ _, coreReset_ok _ _, rfl, reset_half_eq⟩, atLeast_one_pos _, rfl⟩

/-- Settles O59: `State.reset` is the block as constructed with the default parameters. -/
theorem resetMeetsTheInvariant : Obligations.ResetMeetsTheInvariant := ⟨powerOn_inv, powerOn_inv resetConfig⟩

end Sys2Proof.Machine
